-- ==== Sys2Proof/Word.lean ====
section
/-! DEFINITION. The unsigned field types of the block (spec/00_scope.md R9: every value is an unsigned
integer of a stated width; widths from the parameter table of section 4). -/

namespace Sys2Proof

/-- One byte: a colour channel, a frame byte (R6). -/
abbrev Byte := BitVec 8

/-- A command word (R37). -/
abbrev CmdWord := BitVec 64

/-- An LED index operand, 16 bits, unsigned (R39). -/
abbrev Index := BitVec 16

/-- A brightness level, 5 bits, 0 to 31 (R6). -/
abbrev Level := BitVec 5

/-- A packed24 colour value (R52). -/
abbrev Packed24 := BitVec 24

/-- A 32-bit value: an ARGB word (R53) or the data of one response beat (R42). -/
abbrev Beat := BitVec 32

end Sys2Proof
end

