-- ==== Sys2Proof/Syntax.lean ====
section
/-! DEFINITION. The command set CS-1: one constructor per row of the opcode map
(spec/30_encoding.md R45). The operand types have exactly the widths of R39 and R40, so a value
outside its range cannot be written. -/

namespace Sys2Proof

inductive Instr where
  /-- `SETCOL idx, r, g, b` (R57) -/
  | setcol (idx : Index) (r g b : Byte)
  /-- `SETCOL.ALL r, g, b` (R58) -/
  | setcolAll (r g b : Byte)
  /-- `SETRGB idx, p24` (R59) -/
  | setrgb (idx : Index) (p24 : Packed24)
  /-- `SETRGB.ALL p24` (R60) -/
  | setrgbAll (p24 : Packed24)
  /-- `SETILL idx, level` (R62) -/
  | setill (idx : Index) (level : Level)
  /-- `SETILL.ALL level` (R63) -/
  | setillAll (level : Level)
  /-- `LEDOFF idx` (R64) -/
  | ledoff (idx : Index)
  /-- `LEDON idx` (R65) -/
  | ledon (idx : Index)
  /-- `SERIALIZE` (R67) -/
  | serialize
  /-- `UPDATE force` (R68) -/
  | update (force : Bool)
  /-- `PACKRGB r, g, b` (R72) -/
  | packrgb (r g b : Byte)
  /-- `PACKARGB a, r, g, b` (R73) -/
  | packargb (a r g b : Byte)
  /-- `UNPKA word` (R74) -/
  | unpka (word : Beat)
  /-- `UNPKR word` (R75) -/
  | unpkr (word : Beat)
  /-- `UNPKG word` (R76) -/
  | unpkg (word : Beat)
  /-- `UNPKB word` (R77) -/
  | unpkb (word : Beat)
  deriving DecidableEq, Repr

end Sys2Proof
end

