-- ==== Sys2Proof/Decode.lean ====
section
/-! DEFINITION. The command word (spec/30_encoding.md R37 to R39), the opcode map (R45), the total
decoder and its inverse (R46, R56). -/

namespace Sys2Proof

/-! ## Fields (R37, R39) -/

/-- `OP = w[63:56]`. -/
def opField (w : CmdWord) : BitVec 8 := w.extractLsb' 56 8
/-- `RSV = w[55:48]`. -/
def rsvField (w : CmdWord) : BitVec 8 := w.extractLsb' 48 8
/-- `idx = IDX = w[47:32]`. -/
def idxField (w : CmdWord) : Index := w.extractLsb' 32 16
/-- `word = DATA = w[31:0]`. -/
def dataField (w : CmdWord) : Beat := w.extractLsb' 0 32
/-- `a = w[31:24]`. -/
def aField (w : CmdWord) : Byte := w.extractLsb' 24 8
/-- `r = w[23:16]`. -/
def rField (w : CmdWord) : Byte := w.extractLsb' 16 8
/-- `g = w[15:8]`. -/
def gField (w : CmdWord) : Byte := w.extractLsb' 8 8
/-- `b = w[7:0]`. -/
def bField (w : CmdWord) : Byte := w.extractLsb' 0 8
/-- `p24 = w[23:0]`. -/
def p24Field (w : CmdWord) : Packed24 := w.extractLsb' 0 24
/-- `level = w[4:0]`. -/
def levelField (w : CmdWord) : Level := w.extractLsb' 0 5
/-- `force = w[0]`, 1 meaning true. -/
def forceField (w : CmdWord) : Bool := w.getLsbD 0

/-! ## Formats (R38) -/

/-- The eight formats. -/
inductive Format where
  | ic | ac | il | al | ix | z | f | w
  deriving DecidableEq, Repr

/-- The mask column of R38: the bits that are fixed. -/
def Format.mask : Format → CmdWord
  | .ic => 0xFFFF0000FF000000
  | .ac => 0xFFFFFFFFFF000000
  | .il => 0xFFFF0000FFFFFFE0
  | .al => 0xFFFFFFFFFFFFFFE0
  | .ix => 0xFFFF0000FFFFFFFF
  | .z => 0xFFFFFFFFFFFFFFFF
  | .f => 0xFFFFFFFFFFFFFFFE
  | .w => 0xFFFFFFFF00000000

/-! ## The opcode map (R45) -/

/-- One row of R45: the command's name, its match and format, and how its operands are extracted (R39). -/
structure OpRow where
  mnemonic : String
  pattern : CmdWord
  format : Format
  build : CmdWord → Instr

/-- The mask of a row is that of its format. -/
def OpRow.mask (r : OpRow) : CmdWord := r.format.mask

/-- "A word `w` is the command of a row if and only if `w & mask = match`" (R45). -/
def OpRow.accepts (r : OpRow) (w : CmdWord) : Bool := w &&& r.mask == r.pattern

/-- Group `0x1`: the setters (R44). -/
def setterRows : List OpRow :=
  [ ⟨"SETCOL", 0x1000000000000000, .ic, fun w => .setcol (idxField w) (rField w) (gField w) (bField w)⟩,
    ⟨"SETCOL.ALL", 0x1100000000000000, .ac, fun w => .setcolAll (rField w) (gField w) (bField w)⟩,
    ⟨"SETRGB", 0x1200000000000000, .ic, fun w => .setrgb (idxField w) (p24Field w)⟩,
    ⟨"SETRGB.ALL", 0x1300000000000000, .ac, fun w => .setrgbAll (p24Field w)⟩,
    ⟨"SETILL", 0x1400000000000000, .il, fun w => .setill (idxField w) (levelField w)⟩,
    ⟨"SETILL.ALL", 0x1500000000000000, .al, fun w => .setillAll (levelField w)⟩,
    ⟨"LEDOFF", 0x1600000000000000, .ix, fun w => .ledoff (idxField w)⟩,
    ⟨"LEDON", 0x1700000000000000, .ix, fun w => .ledon (idxField w)⟩ ]

/-- Group `0x2`: encoder output and transmitter (R44). -/
def outputRows : List OpRow :=
  [ ⟨"SERIALIZE", 0x2000000000000000, .z, fun _ => .serialize⟩,
    ⟨"UPDATE", 0x2100000000000000, .f, fun w => .update (forceField w)⟩ ]

/-- Group `0x3`: colour helpers (R44). -/
def helperRows : List OpRow :=
  [ ⟨"PACKRGB", 0x3000000000000000, .ac, fun w => .packrgb (rField w) (gField w) (bField w)⟩,
    ⟨"PACKARGB", 0x3100000000000000, .w,
      fun w => .packargb (aField w) (rField w) (gField w) (bField w)⟩,
    ⟨"UNPKA", 0x3200000000000000, .w, fun w => .unpka (dataField w)⟩,
    ⟨"UNPKR", 0x3300000000000000, .w, fun w => .unpkr (dataField w)⟩,
    ⟨"UNPKG", 0x3400000000000000, .w, fun w => .unpkg (dataField w)⟩,
    ⟨"UNPKB", 0x3500000000000000, .w, fun w => .unpkb (dataField w)⟩ ]

/-- The command set CS-1: 16 rows and no others (R45). -/
def opcodeTable : List OpRow := setterRows ++ outputRows ++ helperRows

/-! ## Decoding (R46, R56) -/

/-- Why a word is a reserved encoding: the two cases of R46. -/
inductive DecodeError where
  /-- `OP` is not one of the 16 listed values. -/
  | unassignedOpcode
  /-- `OP` is listed, but a bit that its format reserves is 1. -/
  | reservedBits
  deriving DecidableEq, Repr

/-- Is `op` one of the 16 listed opcode values (R46)? -/
def assignedOpcode (op : BitVec 8) : Bool := opcodeTable.any fun r => opField r.pattern == op

/-- The name of a reserved word's defect (R46). -/
def decodeErrorOf (w : CmdWord) : DecodeError :=
  if assignedOpcode (opField w) then .reservedBits else .unassignedOpcode

/-- `Decode(w)` (R56): the command of the row that accepts `w`, or the reason why `w` is reserved. -/
def decode (w : CmdWord) : Except DecodeError Instr :=
  match opcodeTable.find? fun r => r.accepts w with
  | some r => .ok (r.build w)
  | none => .error (decodeErrorOf w)

/-- A command word's bits as spec/opcode_table.json numbers them: one 64-bit word, bit 0 its least
significant bit; the bits above `nbits` are 0. -/
def tableWord (nbits w : Nat) : CmdWord := BitVec.ofNat 64 (w % 2 ^ nbits)

/-- The instruction the decoder reads from a row's word. -/
def decodeTableWord (nbits w : Nat) : Option Instr :=
  match decode (tableWord nbits w) with
  | .ok i => some i
  | .error _ => none

/-! ## Encoding (R56) -/

/-- A command word from its fields, `RSV` zero (R37). -/
def commandWord (op : BitVec 8) (idx : Index) (data : Beat) : CmdWord := op ++ 0#8 ++ idx ++ data

/-- `DATA` of the formats IC and AC (R38). -/
def rgbData (r g b : Byte) : Beat := 0#8 ++ r ++ g ++ b
/-- `DATA` of format W with four channels (R38). -/
def argbData (a r g b : Byte) : Beat := a ++ r ++ g ++ b
/-- `DATA` of a packed24 operand (R38). -/
def p24Data (p24 : Packed24) : Beat := 0#8 ++ p24
/-- `DATA` of the formats IL and AL (R38). -/
def levelData (level : Level) : Beat := 0#27 ++ level
/-- `DATA` of format F (R38). -/
def forceData (force : Bool) : Beat := 0#31 ++ BitVec.ofBool force

/-- `Encode(c)` (R56): the opcode in `OP`, the operands in their fields and zero everywhere else. -/
def encode : Instr → CmdWord
  | .setcol idx r g b => commandWord 0x10 idx (rgbData r g b)
  | .setcolAll r g b => commandWord 0x11 0 (rgbData r g b)
  | .setrgb idx p24 => commandWord 0x12 idx (p24Data p24)
  | .setrgbAll p24 => commandWord 0x13 0 (p24Data p24)
  | .setill idx level => commandWord 0x14 idx (levelData level)
  | .setillAll level => commandWord 0x15 0 (levelData level)
  | .ledoff idx => commandWord 0x16 idx 0
  | .ledon idx => commandWord 0x17 idx 0
  | .serialize => commandWord 0x20 0 0
  | .update force => commandWord 0x21 0 (forceData force)
  | .packrgb r g b => commandWord 0x30 0 (rgbData r g b)
  | .packargb a r g b => commandWord 0x31 0 (argbData a r g b)
  | .unpka word => commandWord 0x32 0 word
  | .unpkr word => commandWord 0x33 0 word
  | .unpkg word => commandWord 0x34 0 word
  | .unpkb word => commandWord 0x35 0 word

/-- The mnemonic of a command, as R45 and spec/opcode_table.json spell it. -/
def Instr.mnemonic : Instr → String
  | .setcol .. => "SETCOL"
  | .setcolAll .. => "SETCOL.ALL"
  | .setrgb .. => "SETRGB"
  | .setrgbAll .. => "SETRGB.ALL"
  | .setill .. => "SETILL"
  | .setillAll .. => "SETILL.ALL"
  | .ledoff .. => "LEDOFF"
  | .ledon .. => "LEDON"
  | .serialize => "SERIALIZE"
  | .update .. => "UPDATE"
  | .packrgb .. => "PACKRGB"
  | .packargb .. => "PACKARGB"
  | .unpka .. => "UNPKA"
  | .unpkr .. => "UNPKR"
  | .unpkg .. => "UNPKG"
  | .unpkb .. => "UNPKB"

end Sys2Proof
end

