-- ==== Sys2Proof/Config.lean ====
section
/-! DEFINITION. What an instance fixes and what the spec leaves open (spec/93_implementation_defined.md
section 1: U3, U4, U7, U8). The constants without a body are free values: nothing can be proved about
which value they have. -/

namespace Sys2Proof

/-- The bus status alphabet (R86; the failure/timeout outcomes are one value). -/
inductive BusStatus where
  | ok
  | fail
  deriving DecidableEq, Repr, Inhabited

/-- The strip length of the machine that `State.reset` describes. DESIGN CHOICE (log entry 1): the spec
fixes no `N`; 16 is its one example. Every meaning works for any length of the LED store. -/
def Config.stripLength : Nat := 16

/-- `1 <= N <= 65536` (R5): the largest strip length. -/
def Config.maxStripLength : Nat := 65536

/-- Free value (U4, R86; log entry 3): the status the environment draws for the transfer number `k`. -/
opaque Config.busStatus : Nat → BusStatus

/-- Free value (U3, R69; log entry 4): the bytes that reached the link in transfer number `k` if its
status was FAIL; "any byte sequence, including none and including the whole frame". -/
opaque Config.failedBytes : Nat → List Byte

/-- The open parameter `TIMEOUT` (R7, U7; log entry 5): finite, and read by no rule. -/
opaque Config.timeout : Nat

end Sys2Proof
end

