-- ==== Sys2Proof/Machine/Wire.lean ====
section
/-! DEFINITION. The LED entry (spec/10_state.md R11, R12), the wire formats (spec/30_encoding.md R47 to
R51, spec/20_memory.md R25) and the packed colour words (R52, R53, spec/43_pack_helpers.md R72 to R77):
pure functions, no state. -/

namespace Sys2Proof.Machine

/-- An LED entry, 32 bits in five fields (R11). The marker is stored, not hardwired (log entry 12). -/
structure LedEntry where
  marker : BitVec 3
  bright : Level
  blue : Byte
  green : Byte
  red : Byte
  deriving DecidableEq, Repr

/-! ## Constants (R6) -/

/-- `MARKER = 0b111`. -/
def packetMarker : BitVec 3 := 0b111
/-- `BRIGHT_MAX = 31`. -/
def brightMax : Level := 31
/-- `START`: 4 bytes of 0x00 (R49). -/
def startMarker : List Byte := [0x00, 0x00, 0x00, 0x00]
/-- `END`: 4 bytes of 0xFF, for every `N` (R49). -/
def endMarker : List Byte := [0xFF, 0xFF, 0xFF, 0xFF]
/-- `FRAME_LEN = 8 + 4*N`. -/
def frameLen (n : Nat) : Nat := 8 + 4 * n

/-- The reset value of an entry: marker set, brightness and colours zero (R20). -/
def resetEntry : LedEntry := ⟨packetMarker, 0, 0, 0, 0⟩

/-! ## Wire formats -/

/-- `Word(e)`: the packed view of an entry, CMD in bits 31:24 (R12; a naming convenience). -/
def entryWord (e : LedEntry) : BitVec 32 := e.marker ++ e.bright ++ e.blue ++ e.green ++ e.red

/-- `Cmd(e)`, byte 0 of the packet (R47). -/
def cmdByte (e : LedEntry) : Byte := e.marker ++ e.bright

/-- `Packet(e)`: CMD, blue, green, red (R48). -/
def packet (e : LedEntry) : List Byte := [cmdByte e, e.blue, e.green, e.red]

/-- `Serialize(LED)`: the frame, a function of the LED store alone (R50). -/
def frameOf (leds : List LedEntry) : List Byte := startMarker ++ leds.flatMap packet ++ endMarker

/-- The bits of one byte in the order they are shifted out, most significant first (R25). -/
def byteBits (b : Byte) : List Bool := (List.range 8).map fun k => b.getLsbD (7 - k)

/-- `WireBits(f)`: the bit string of a byte sequence on the link (R25; log entry 15). -/
def wireBits (f : List Byte) : List Bool := f.flatMap byteBits

/-! ## Packed colour words (R52, R53) -/

/-- `PackRGB`: bits 31:24 zero (R72). -/
def packRGB (r g b : Byte) : Beat := 0#8 ++ r ++ g ++ b
/-- `PackARGB` (R73). -/
def packARGB (a r g b : Byte) : Beat := a ++ r ++ g ++ b
/-- `UnpackAlpha(word) = word[31:24]` (R74). -/
def unpackAlpha (word : Beat) : Byte := word.extractLsb' 24 8
/-- `UnpackRed(word) = word[23:16]` (R75). -/
def unpackRed (word : Beat) : Byte := word.extractLsb' 16 8
/-- `UnpackGreen(word) = word[15:8]` (R76). -/
def unpackGreen (word : Beat) : Byte := word.extractLsb' 8 8
/-- `UnpackBlue(word) = word[7:0]` (R77). -/
def unpackBlue (word : Beat) : Byte := word.extractLsb' 0 8

end Sys2Proof.Machine
end

