-- ==== Sys2Proof/Machine/State.lean ====
section
/-! DEFINITION. The state of the block (spec/10_state.md: `LED`, `DIRTY`, `WIREBUF`, `PHASE`, and nothing
else), the host's inputs and the trace that the model keeps beside it (spec/00_scope.md R8 and section 8),
the outcomes' reasons, and the state right after reset (R20). -/

namespace Sys2Proof.Machine

/-- `PHASE` (R16). -/
inductive Phase where
  /-- from reset until the construction sequence has finished -/
  | init
  /-- from then on -/
  | idle
  deriving DecidableEq, Repr

/-- One input of the host (R36, R98; log entries 6 and 7). -/
inductive HostInput where
  /-- a command word, held on the command port until it is accepted (R43) -/
  | cmd (w : CmdWord)
  /-- the host presents nothing during one step of the block -/
  | quiet
  /-- `rst` is asserted while no transfer is in progress -/
  | rst
  /-- `rst` is asserted while the transfer of the step before it, if that step has one, is in progress -/
  | rstInTransfer
  deriving DecidableEq, Repr

/-- One call of the bus-write primitive and its outcome (R86). -/
structure BusTransfer where
  /-- `tx_buf` -/
  buffer : List Byte
  /-- `tx_len` -/
  length : Nat
  /-- `tx_timeout` -/
  timeout : Nat
  /-- `tx_status` -/
  status : BusStatus
  /-- the bytes that reached the link (R69) -/
  carried : List Byte
  deriving DecidableEq, Repr

/-- The events that leave the block (R36; spec/00_scope.md section 8, "Trace"). -/
inductive Event where
  | reset
  | busWrite (t : BusTransfer)
  /-- one response beat and `rsp_last` (R42) -/
  | respond (data : Beat) (last : Bool)
  deriving DecidableEq, Repr

/-- Fault reasons: there are none. "The block has no fault state and no stuck state" (R85), and it raises no
exception (R81), so no meaning can answer a fault. Safe. -/
inductive Fault where
  deriving DecidableEq, Repr

/-- Refusal reasons. -/
inductive Refusal where
  /-- Raised by an arm of `exec` for an instruction without a meaning: no arm does. Safe. -/
  | notModelled (mnemonic : String)
  /-- Raised by `step` for a reserved command word whose `OP` is not assigned (R46, R84). Safe: the spec gives
  such a word no behaviour. -/
  | unassignedOpcode (w : CmdWord)
  /-- Raised by `step` for a reserved command word whose `OP` is assigned but which has a 1 in a reserved bit
  (R46, R84). Safe: the spec gives such a word no behaviour. -/
  | reservedBits (w : CmdWord)
  deriving DecidableEq, Repr

/-- The state. The first four fields are the spec's (R10, R14, R17, R16); the last three are the model's own. -/
structure State where
  /-- `LED[0..N-1]`, index 0 first; its length is `N` (log entry 1) -/
  leds : List LedEntry
  /-- `DIRTY` -/
  dirty : Bool
  /-- `WIREBUF` -/
  wirebuf : List Byte
  /-- `PHASE` -/
  phase : Phase
  /-- the host's inputs still to come, next first (log entry 6) -/
  host : List HostInput
  /-- what the outside has seen so far, oldest first (log entry 9) -/
  trace : List Event
  /-- how many transfers have been attempted: the argument of the free values (log entry 8) -/
  draws : Nat
  deriving DecidableEq, Repr

/-- A block of `n` LEDs right after reset, the construction sequence still to run (R20). `WIREBUF` is unspecified
there; its zeros are a DESIGN CHOICE (log entry 2). -/
def State.resetWith (n : Nat) : State where
  leds := List.replicate n resetEntry
  dirty := true
  wirebuf := List.replicate (frameLen n) 0
  phase := .init
  host := []
  trace := [.reset]
  draws := 0

/-- The machine right after reset. -/
def State.reset : State := State.resetWith Config.stripLength

end Sys2Proof.Machine
end

