-- ==== Sys2Proof/Machine/Flags.lean ====
section
/-! DEFINITION. The block's one flag, `DIRTY` (spec/10_state.md R14): what sets, clears and reads it. -/

namespace Sys2Proof.Machine

/-- `DIRTY <- 1`: the side effect of every setter, in range or not (R14, R22). -/
def State.setDirty (s : State) : State := { s with dirty := true }

/-- `DIRTY <- 0`: after a transfer attempt, whatever its status (R14, R68). -/
def State.clearDirty (s : State) : State := { s with dirty := false }

/-- The test of `UPDATE`: `DIRTY = 1 or force = 1`, on the value `DIRTY` has when the command begins (R88). -/
def State.mustTransmit (s : State) (force : Bool) : Bool := s.dirty || force

end Sys2Proof.Machine
end

