-- ==== Sys2Proof/Machine/Operands.lean ====
section
/-! DEFINITION. The operand forms: the index (spec/20_memory.md R21), colours by channels and packed
(spec/30_encoding.md R39, R52), levels (R40). Every operand is an unsigned field taken as it stands. -/

namespace Sys2Proof.Machine

/-- `N`, the strip length (R5): the number of entries of the LED store. -/
def State.stripLen (s : State) : Nat := s.leds.length

/-- `InRange(idx)`: `idx < N`, both unsigned (R21). -/
def State.inRange (s : State) (idx : Index) : Bool := decide (idx.toNat < s.stripLen)

/-- The entry a colour setter writes: marker fixed, brightness maximum, the three channels (R57). -/
def fullOn (r g b : Byte) : LedEntry :=
  { marker := packetMarker, bright := brightMax, blue := b, green := g, red := r }

/-- The entry a packed-colour setter writes: red from bits 23:16, green from 15:8, blue from 7:0 (R59), by the
unpack functions applied to the zero-extended operand (R79). -/
def fullOnPacked (p24 : Packed24) : LedEntry :=
  let word : Beat := p24.setWidth 32
  fullOn (unpackRed word) (unpackGreen word) (unpackBlue word)

/-- What an illumination setter does to an entry: brightness only, colour and marker kept (R62). -/
def LedEntry.withBright (e : LedEntry) (level : Level) : LedEntry := { e with bright := level }

end Sys2Proof.Machine
end

