-- ==== Sys2Proof/Machine/Ops.lean ====
section
/-! DEFINITION. The named operations over the state: writing entries (spec/20_memory.md R21, R22, R27), the wire
buffer and the frame offset space (R28), responses (spec/30_encoding.md R42), the bus-write primitive
(spec/60_exceptions.md R86), the transfer that `UPDATE` and construction share (spec/42_serialize_update.md R68),
reset and construction (spec/70_reset_and_hazards.md R96 to R98), and what the block does next (R43). -/

namespace Sys2Proof.Machine

/-! ## The LED store -/

/-- Write of `LED[idx]` by `f` if `InRange(idx)`; otherwise no entry changes (R22). -/
def State.modifyLed (s : State) (idx : Index) (f : LedEntry → LedEntry) : State :=
  if s.inRange idx then { s with leds := s.leds.modify idx.toNat f } else s

/-- Write of every entry, `for i in 0 .. N-1` (R21). -/
def State.modifyAll (s : State) (f : LedEntry → LedEntry) : State := { s with leds := s.leds.map f }

/-- `MemRead(off, 1) = Serialize(LED)[off]`, a read of the frame offset space (spec/00_scope.md section 6, R28);
`none` beyond offset `7 + 4*N`. -/
def State.memRead (s : State) (off : Nat) : Option Byte := (frameOf s.leds)[off]?

/-! ## Wire buffer, responses, bus -/

/-- `WIREBUF <- Serialize(LED)` (R17). -/
def State.latchFrame (s : State) : State := { s with wirebuf := frameOf s.leds }

/-- The beats of one response in order, the last one marked (R42). -/
def responseEvents : List Beat → List Event
  | [] => []
  | [v] => [.respond v true]
  | v :: w :: rest => .respond v false :: responseEvents (w :: rest)

/-- `Respond(v)` for each value in order, the last beat marked (R42). -/
def State.respond (s : State) (beats : List Beat) : State :=
  { s with trace := s.trace ++ responseEvents beats }

/-- Is the transfer of this step abandoned by a reset (R98)? -/
def State.cutByReset (s : State) : Bool :=
  match s.host with
  | .rstInTransfer :: _ => true
  | _ => false

/-- The status of the next transfer: FAIL if a reset cuts it short (R98), else the environment's draw (R86). -/
def State.nextStatus (s : State) : BusStatus :=
  if s.cutByReset then .fail else Config.busStatus s.draws

/-- What the link carried of `buffer`: exactly it when the status is OK, any bytes when it is FAIL (R69). -/
def linkBytes (status : BusStatus) (draw : Nat) (buffer : List Byte) : List Byte :=
  match status with
  | .ok => buffer
  | .fail => Config.failedBytes draw

/-- The call `BusWrite(WIREBUF, FRAME_LEN, TIMEOUT)` and its outcome (R86). -/
def State.nextTransfer (s : State) : BusTransfer :=
  { buffer := s.wirebuf
    length := frameLen s.stripLen
    timeout := Config.timeout
    status := s.nextStatus
    carried := linkBytes s.nextStatus s.draws s.wirebuf }

/-- One blocking transfer: one event, whatever the status; the status is dropped (R86, R69). -/
def State.busWrite (s : State) : State :=
  { s with trace := s.trace ++ [.busWrite s.nextTransfer], draws := s.draws + 1 }

/-- Serialize, transfer, clear `DIRTY`, in this order (R68, R88). -/
def State.transmit (s : State) : State := s.latchFrame.busWrite.clearDirty

/-! ## Reset and construction -/

/-- `rst` asserted (R98, R20): the entries, `DIRTY` and `PHASE` take their reset values; `WIREBUF` is not written
until the construction sequence does (R17); `N` is fixed (R5). -/
def State.assertReset (s : State) : State :=
  { s with
    leds := List.replicate s.stripLen resetEntry
    dirty := true
    phase := .init
    trace := s.trace ++ [.reset] }

/-- The rest of the construction sequence: one unconditional update, then IDLE (R96). -/
def State.construct (s : State) : State := { s.transmit with phase := .idle }

/-! ## The command port -/

/-- `cmd_ready` between two steps (R43). -/
def State.cmdReady (s : State) : Bool := s.phase == .idle

/-- What the block does next. -/
inductive Action where
  /-- `rst` is asserted (R98) -/
  | reset
  /-- the construction sequence runs, without any command (R96) -/
  | construct
  /-- idle, no command presented: nothing happens (R93) -/
  | wait
  /-- a command word is accepted (R43) -/
  | accept (w : CmdWord)
  deriving DecidableEq, Repr

/-- Reset has priority over everything (R88); in INIT no command is accepted (R16); in IDLE the word presented is
accepted (R43). A reset that finds the block in INIT with the transfer running first lets the transfer end in FAIL,
and one that finds no transfer running acts at once (log entry 7). -/
def State.nextAction (s : State) : Action :=
  match s.phase, s.host with
  | _, .rst :: _ => .reset
  | .init, _ => .construct
  | .idle, [] => .wait
  | .idle, .quiet :: _ => .wait
  | .idle, .rstInTransfer :: _ => .reset
  | .idle, .cmd w :: _ => .accept w

/-- The host's next input has been taken. -/
def State.popHost (s : State) : State := { s with host := s.host.tail }

/-- A quiet moment passes during the construction sequence; any other input stays presented (R43). -/
def State.dropQuiet (s : State) : State :=
  match s.host with
  | .quiet :: rest => { s with host := rest }
  | _ => s

/-- The host presents `w` as its next input. -/
def State.present (s : State) (w : CmdWord) : State := { s with host := .cmd w :: s.host }

/-- The state in which the block is first ready: the construction sequence has run if it had not (R99: "the first
command is accepted only in the state of rule R97"). -/
def State.madeReady (s : State) : State :=
  match s.phase with
  | .init => s.construct
  | .idle => s

/-- The refusal that names a reserved word's defect (R46, R84). -/
def refusalOf (w : CmdWord) : DecodeError → Refusal
  | .unassignedOpcode => .unassignedOpcode w
  | .reservedBits => .reservedBits w

/-! ## Observations of the trace -/

/-- The transfers among the events. -/
def Event.transfer? : Event → Option BusTransfer
  | .busWrite t => some t
  | .reset => none
  | .respond _ _ => none

/-- All transfers attempted so far, oldest first. -/
def State.transfers (s : State) : List BusTransfer := s.trace.filterMap Event.transfer?

/-- Every byte the link has carried so far, in order (R23, R69). -/
def State.linkCarried (s : State) : List Byte := s.transfers.flatMap BusTransfer.carried

end Sys2Proof.Machine
end

