-- ==== Sys2Proof/Machine/Output.lean ====
section
/-! DEFINITION. Encoder output and Transmitter (spec/42_serialize_update.md R67, R68). -/

namespace Sys2Proof.Machine

/-- `SERIALIZE` (R67): the frame is latched and returned one byte a beat, zero-extended; `DIRTY` is kept. -/
def execSerialize (s : State) : Host.Outcome State Fault Refusal :=
  .next (s.latchFrame.respond ((frameOf s.leds).map (BitVec.setWidth 32)))

/-- `UPDATE force` (R68). -/
def execUpdate (force : Bool) (s : State) : Host.Outcome State Fault Refusal :=
  .next (if s.mustTransmit force then s.transmit else s)

end Sys2Proof.Machine
end

