-- ==== Sys2Proof/Machine/PackHelpers.lean ====
section
/-! DEFINITION. The colour packing helpers (spec/43_pack_helpers.md R72 to R77): each responds with one beat and
touches no state of the block. -/

namespace Sys2Proof.Machine

/-- `PACKRGB r, g, b` (R72). -/
def execPackrgb (r g b : Byte) (s : State) : Host.Outcome State Fault Refusal :=
  .next (s.respond [packRGB r g b])

/-- `PACKARGB a, r, g, b` (R73). -/
def execPackargb (a r g b : Byte) (s : State) : Host.Outcome State Fault Refusal :=
  .next (s.respond [packARGB a r g b])

/-- `UNPKA word` (R74). -/
def execUnpka (word : Beat) (s : State) : Host.Outcome State Fault Refusal :=
  .next (s.respond [(unpackAlpha word).setWidth 32])

/-- `UNPKR word` (R75). -/
def execUnpkr (word : Beat) (s : State) : Host.Outcome State Fault Refusal :=
  .next (s.respond [(unpackRed word).setWidth 32])

/-- `UNPKG word` (R76). -/
def execUnpkg (word : Beat) (s : State) : Host.Outcome State Fault Refusal :=
  .next (s.respond [(unpackGreen word).setWidth 32])

/-- `UNPKB word` (R77). -/
def execUnpkb (word : Beat) (s : State) : Host.Outcome State Fault Refusal :=
  .next (s.respond [(unpackBlue word).setWidth 32])

end Sys2Proof.Machine
end

