-- ==== Sys2Proof/Machine/SetColor.lean ====
section
/-! DEFINITION. The colour setters (spec/40_set_color.md R57 to R60). -/

namespace Sys2Proof.Machine

/-- `SETCOL idx, r, g, b` (R57). -/
def execSetcol (idx : Index) (r g b : Byte) (s : State) : Host.Outcome State Fault Refusal :=
  .next (s.modifyLed idx fun _ => fullOn r g b).setDirty

/-- `SETCOL.ALL r, g, b` (R58). -/
def execSetcolAll (r g b : Byte) (s : State) : Host.Outcome State Fault Refusal :=
  .next (s.modifyAll fun _ => fullOn r g b).setDirty

/-- `SETRGB idx, p24` (R59): the bounds policy is that of `SETCOL`. -/
def execSetrgb (idx : Index) (p24 : Packed24) (s : State) : Host.Outcome State Fault Refusal :=
  .next (s.modifyLed idx fun _ => fullOnPacked p24).setDirty

/-- `SETRGB.ALL p24` (R60). -/
def execSetrgbAll (p24 : Packed24) (s : State) : Host.Outcome State Fault Refusal :=
  .next (s.modifyAll fun _ => fullOnPacked p24).setDirty

end Sys2Proof.Machine
end

