-- ==== Sys2Proof/Machine/SetIllumination.lean ====
section
/-! DEFINITION. The illumination setters (spec/41_set_illumination.md R62 to R65). -/

namespace Sys2Proof.Machine

/-- `SETILL idx, level` (R62). -/
def execSetill (idx : Index) (level : Level) (s : State) : Host.Outcome State Fault Refusal :=
  .next (s.modifyLed idx fun e => e.withBright level).setDirty

/-- `SETILL.ALL level` (R63). -/
def execSetillAll (level : Level) (s : State) : Host.Outcome State Fault Refusal :=
  .next (s.modifyAll fun e => e.withBright level).setDirty

/-- `LEDOFF idx` (R64): brightness 0, the colour kept. -/
def execLedoff (idx : Index) (s : State) : Host.Outcome State Fault Refusal :=
  .next (s.modifyLed idx fun e => e.withBright 0).setDirty

/-- `LEDON idx` (R65): brightness 31, not the level before. -/
def execLedon (idx : Index) (s : State) : Host.Outcome State Fault Refusal :=
  .next (s.modifyLed idx fun e => e.withBright brightMax).setDirty

end Sys2Proof.Machine
end

