-- ==== Sys2Proof/Machine/Dispatch.lean ====
section
/-! DEFINITION. The command's meaning, one arm per constructor (spec/30_encoding.md R45). -/

namespace Sys2Proof.Machine

def exec (i : Instr) (s : State) : Host.Outcome State Fault Refusal :=
  match i with
  -- colour setters
  | .setcol idx r g b => Sys2Proof.Machine.execSetcol idx r g b s
  | .setcolAll r g b => Sys2Proof.Machine.execSetcolAll r g b s
  | .setrgb idx p24 => Sys2Proof.Machine.execSetrgb idx p24 s
  | .setrgbAll p24 => Sys2Proof.Machine.execSetrgbAll p24 s
  -- illumination setters
  | .setill idx level => Sys2Proof.Machine.execSetill idx level s
  | .setillAll level => Sys2Proof.Machine.execSetillAll level s
  | .ledoff idx => Sys2Proof.Machine.execLedoff idx s
  | .ledon idx => Sys2Proof.Machine.execLedon idx s
  -- encoder output and transmitter
  | .serialize => Sys2Proof.Machine.execSerialize s
  | .update force => Sys2Proof.Machine.execUpdate force s
  -- colour packing helpers
  | .packrgb r g b => Sys2Proof.Machine.execPackrgb r g b s
  | .packargb a r g b => Sys2Proof.Machine.execPackargb a r g b s
  | .unpka word => Sys2Proof.Machine.execUnpka word s
  | .unpkr word => Sys2Proof.Machine.execUnpkr word s
  | .unpkg word => Sys2Proof.Machine.execUnpkg word s
  | .unpkb word => Sys2Proof.Machine.execUnpkb word s

end Sys2Proof.Machine
end

