-- ==== Sys2Proof/Machine/Step.lean ====
section
/-! DEFINITION. One step of the block: a reset, the construction sequence, an idle moment, or one command from its
acceptance to its completion (spec/10_state.md R13, spec/20_memory.md R31). -/

namespace Sys2Proof.Machine

def step (s : State) : Host.Outcome State Fault Refusal :=
  match s.nextAction with
  | .reset => .next s.popHost.assertReset
  | .construct => .next s.construct.dropQuiet
  | .wait => .next s.popHost
  | .accept w =>
    match decode w with
    | .ok i => exec i s.popHost
    | .error e => .refused (refusalOf w e)

/-- The host presents the word `w` as its next command and the block is ready for it (log entry 6): the block fetches
from no memory, so this stands for the host's issuing of the command. -/
def State.withFetchWord (s : State) (nbits w : Nat) : State := s.madeReady.present (tableWord nbits w)

end Sys2Proof.Machine
end

