-- ==== Sys2Proof/WellFormed.lean ====
section
/-! DEFINITION. Commands as a program writes them (spec/30_encoding.md R54): a mnemonic with unsigned numerals of any
size, and the two pseudo-instructions (R55). `Asm.wellFormed` is the one check there is: each numeral fits its field
("a numeral that does not fit its field (rule R40) is an assembly error, not a truncation"). An `Instr` needs no check
of its own: its operand types have exactly the widths of R40. -/

namespace Sys2Proof

/-- A command of a program, its operands plain numerals (R54), and the pseudo-instructions FLUSH and SYNC (R55). -/
inductive Asm where
  | setcol (idx r g b : Nat)
  | setcolAll (r g b : Nat)
  | setrgb (idx p24 : Nat)
  | setrgbAll (p24 : Nat)
  | setill (idx level : Nat)
  | setillAll (level : Nat)
  | ledoff (idx : Nat)
  | ledon (idx : Nat)
  | serialize
  | update (force : Nat)
  | packrgb (r g b : Nat)
  | packargb (a r g b : Nat)
  | unpka (word : Nat)
  | unpkr (word : Nat)
  | unpkg (word : Nat)
  | unpkb (word : Nat)
  | flush
  | sync
  deriving DecidableEq, Repr

/-- Does a numeral fit a field of `width` bits (R40)? -/
def fits (width n : Nat) : Bool := decide (n < 2 ^ width)

/-- Every operand fits its field (R40, R54). -/
def Asm.wellFormed : Asm → Bool
  | .setcol idx r g b => fits 16 idx && fits 8 r && fits 8 g && fits 8 b
  | .setcolAll r g b => fits 8 r && fits 8 g && fits 8 b
  | .setrgb idx p24 => fits 16 idx && fits 24 p24
  | .setrgbAll p24 => fits 24 p24
  | .setill idx level => fits 16 idx && fits 5 level
  | .setillAll level => fits 5 level
  | .ledoff idx => fits 16 idx
  | .ledon idx => fits 16 idx
  | .serialize => true
  | .update force => fits 1 force
  | .packrgb r g b => fits 8 r && fits 8 g && fits 8 b
  | .packargb a r g b => fits 8 a && fits 8 r && fits 8 g && fits 8 b
  | .unpka word => fits 32 word
  | .unpkr word => fits 32 word
  | .unpkg word => fits 32 word
  | .unpkb word => fits 32 word
  | .flush => true
  | .sync => true

/-- The command a well-formed line stands for; FLUSH is UPDATE 1 and SYNC is UPDATE 0 (R55). -/
def Asm.command : Asm → Instr
  | .setcol idx r g b => .setcol (.ofNat 16 idx) (.ofNat 8 r) (.ofNat 8 g) (.ofNat 8 b)
  | .setcolAll r g b => .setcolAll (.ofNat 8 r) (.ofNat 8 g) (.ofNat 8 b)
  | .setrgb idx p24 => .setrgb (.ofNat 16 idx) (.ofNat 24 p24)
  | .setrgbAll p24 => .setrgbAll (.ofNat 24 p24)
  | .setill idx level => .setill (.ofNat 16 idx) (.ofNat 5 level)
  | .setillAll level => .setillAll (.ofNat 5 level)
  | .ledoff idx => .ledoff (.ofNat 16 idx)
  | .ledon idx => .ledon (.ofNat 16 idx)
  | .serialize => .serialize
  | .update force => .update (decide (force = 1))
  | .packrgb r g b => .packrgb (.ofNat 8 r) (.ofNat 8 g) (.ofNat 8 b)
  | .packargb a r g b => .packargb (.ofNat 8 a) (.ofNat 8 r) (.ofNat 8 g) (.ofNat 8 b)
  | .unpka word => .unpka (.ofNat 32 word)
  | .unpkr word => .unpkr (.ofNat 32 word)
  | .unpkg word => .unpkg (.ofNat 32 word)
  | .unpkb word => .unpkb (.ofNat 32 word)
  | .flush => .update true
  | .sync => .update false

/-- Assembly of one line: the command, or nothing where a numeral does not fit (R54). -/
def Asm.assemble (a : Asm) : Option Instr := if a.wellFormed then some a.command else none

/-- The line that writes a command. -/
def Instr.toAsm : Instr → Asm
  | .setcol idx r g b => .setcol idx.toNat r.toNat g.toNat b.toNat
  | .setcolAll r g b => .setcolAll r.toNat g.toNat b.toNat
  | .setrgb idx p24 => .setrgb idx.toNat p24.toNat
  | .setrgbAll p24 => .setrgbAll p24.toNat
  | .setill idx level => .setill idx.toNat level.toNat
  | .setillAll level => .setillAll level.toNat
  | .ledoff idx => .ledoff idx.toNat
  | .ledon idx => .ledon idx.toNat
  | .serialize => .serialize
  | .update force => .update force.toNat
  | .packrgb r g b => .packrgb r.toNat g.toNat b.toNat
  | .packargb a r g b => .packargb a.toNat r.toNat g.toNat b.toNat
  | .unpka word => .unpka word.toNat
  | .unpkr word => .unpkr word.toNat
  | .unpkg word => .unpkg word.toNat
  | .unpkb word => .unpkb word.toNat

end Sys2Proof
end

