-- ==== Sys2Proof/Machine/Assembler.lean ====
section
/-! DEFINITION. The text of a program (spec/30_encoding.md R54): one command per line, operands separated by commas,
unsigned numerals in decimal or with the 0x or 0b before them, text from a semicolon to the end of the line a comment.
Lines are lists of characters. What R54 leaves open (blanks, capitals) is log entry 13. -/

namespace Sys2Proof.Machine

/-! ## Numerals -/

/-- The value of a digit character, capital or small. -/
def digitValue (c : Char) : Option Nat :=
  let v := c.toNat
  if 48 ≤ v ∧ v ≤ 57 then some (v - 48)
  else if 65 ≤ v ∧ v ≤ 70 then some (v - 55)
  else if 97 ≤ v ∧ v ≤ 102 then some (v - 87)
  else none

/-- Digits of one base, the most significant first, after the value `acc` of those before. -/
def readDigits (base acc : Nat) : List Char → Option Nat
  | [] => some acc
  | c :: cs =>
    match digitValue c with
    | some d => if d < base then readDigits base (acc * base + d) cs else none
    | none => none

/-- An unsigned numeral (R54); at least one digit. -/
def readNumeral : List Char → Option Nat
  | [] => none
  | ['0', 'x'] => none
  | ['0', 'b'] => none
  | '0' :: 'x' :: ds => readDigits 16 0 ds
  | '0' :: 'b' :: ds => readDigits 2 0 ds
  | ds => readDigits 10 0 ds

/-! ## Lines -/

/-- A blank between the parts of a line. -/
def isBlank (c : Char) : Bool := c == ' ' || c == '\t'

/-- Blanks at both ends taken away. -/
def trimBlanks (cs : List Char) : List Char := ((cs.dropWhile isBlank).reverse.dropWhile isBlank).reverse

/-- The part of a line before its comment (R54). -/
def dropComment (cs : List Char) : List Char := cs.takeWhile fun c => c != ';'

/-- The parts between commas; one part where there is no comma. -/
def splitCommas : List Char → List (List Char)
  | [] => [[]]
  | c :: cs =>
    if c == ',' then [] :: splitCommas cs
    else
      match splitCommas cs with
      | [] => [[c]]
      | p :: ps => (c :: p) :: ps

/-- All of a list's values, or nothing if one is missing. -/
def allSome : List (Option Nat) → Option (List Nat)
  | [] => some []
  | none :: _ => none
  | some v :: rest => (allSome rest).map (v :: ·)

/-- The operand numerals after a mnemonic: none where nothing stands there. -/
def readOperands (cs : List Char) : Option (List Nat) :=
  match trimBlanks cs with
  | [] => some []
  | t => allSome ((splitCommas t).map fun p => readNumeral (trimBlanks p))

/-- A mnemonic with its operands in the source's argument order (R54, R55). -/
def asmOf (mnemonic : List Char) (ops : List Nat) : Option Asm :=
  if mnemonic = ['S', 'E', 'T', 'C', 'O', 'L'] then
    match ops with | [idx, r, g, b] => some (.setcol idx r g b) | _ => none
  else if mnemonic = ['S', 'E', 'T', 'C', 'O', 'L', '.', 'A', 'L', 'L'] then
    match ops with | [r, g, b] => some (.setcolAll r g b) | _ => none
  else if mnemonic = ['S', 'E', 'T', 'R', 'G', 'B'] then
    match ops with | [idx, p24] => some (.setrgb idx p24) | _ => none
  else if mnemonic = ['S', 'E', 'T', 'R', 'G', 'B', '.', 'A', 'L', 'L'] then
    match ops with | [p24] => some (.setrgbAll p24) | _ => none
  else if mnemonic = ['S', 'E', 'T', 'I', 'L', 'L'] then
    match ops with | [idx, level] => some (.setill idx level) | _ => none
  else if mnemonic = ['S', 'E', 'T', 'I', 'L', 'L', '.', 'A', 'L', 'L'] then
    match ops with | [level] => some (.setillAll level) | _ => none
  else if mnemonic = ['L', 'E', 'D', 'O', 'F', 'F'] then
    match ops with | [idx] => some (.ledoff idx) | _ => none
  else if mnemonic = ['L', 'E', 'D', 'O', 'N'] then
    match ops with | [idx] => some (.ledon idx) | _ => none
  else if mnemonic = ['S', 'E', 'R', 'I', 'A', 'L', 'I', 'Z', 'E'] then
    match ops with | [] => some .serialize | _ => none
  else if mnemonic = ['U', 'P', 'D', 'A', 'T', 'E'] then
    match ops with | [force] => some (.update force) | _ => none
  else if mnemonic = ['P', 'A', 'C', 'K', 'R', 'G', 'B'] then
    match ops with | [r, g, b] => some (.packrgb r g b) | _ => none
  else if mnemonic = ['P', 'A', 'C', 'K', 'A', 'R', 'G', 'B'] then
    match ops with | [a, r, g, b] => some (.packargb a r g b) | _ => none
  else if mnemonic = ['U', 'N', 'P', 'K', 'A'] then
    match ops with | [word] => some (.unpka word) | _ => none
  else if mnemonic = ['U', 'N', 'P', 'K', 'R'] then
    match ops with | [word] => some (.unpkr word) | _ => none
  else if mnemonic = ['U', 'N', 'P', 'K', 'G'] then
    match ops with | [word] => some (.unpkg word) | _ => none
  else if mnemonic = ['U', 'N', 'P', 'K', 'B'] then
    match ops with | [word] => some (.unpkb word) | _ => none
  else if mnemonic = ['F', 'L', 'U', 'S', 'H'] then
    match ops with | [] => some .flush | _ => none
  else if mnemonic = ['S', 'Y', 'N', 'C'] then
    match ops with | [] => some .sync | _ => none
  else none

/-- What one line of a program is. -/
inductive Line where
  /-- nothing but blanks and a comment -/
  | empty
  /-- one command -/
  | command (i : Instr)
  /-- an assembly error: an unknown mnemonic, a wrong operand list, or a numeral that does not fit (R54) -/
  | error
  deriving DecidableEq, Repr

/-- The reading of one line (R54). -/
def readLine (cs : List Char) : Line :=
  let t := trimBlanks (dropComment cs)
  if t.isEmpty then .empty
  else
    match readOperands (t.dropWhile fun c => !isBlank c) with
    | none => .error
    | some ops =>
      match (asmOf (t.takeWhile fun c => !isBlank c) ops).bind Asm.assemble with
      | some i => .command i
      | none => .error

/-- A program, "a finite sequence of commands" (R54), as command words; `none` if a line is an error. -/
def assembleProgram : List (List Char) → Option (List CmdWord)
  | [] => some []
  | line :: rest =>
    match readLine line with
    | .empty => assembleProgram rest
    | .command i => (assembleProgram rest).map (encode i :: ·)
    | .error => none

end Sys2Proof.Machine
end

