-- ==== Sys2Proof/Safety.lean ====
section
/-! DEFINITION. What holds of the block in every state a run reaches, and the words the statements use for runs:
the invariant of the state, what a recorded transfer looks like, sequences of commands. -/

namespace Sys2Proof.Machine

/-! ## The invariant -/

/-- "`1 <= N <= 65536`" (R5). -/
def State.StripBounded (s : State) : Prop := 1 ≤ s.stripLen ∧ s.stripLen ≤ Config.maxStripLength

/-- "every LED entry always has marker = fixed constant after any write" (R11). -/
def State.MarkersSet (s : State) : Prop := ∀ e ∈ s.leds, e.marker = packetMarker

/-- `WIREBUF` has `FRAME_LEN` bytes (R17). -/
def State.WirebufSized (s : State) : Prop := s.wirebuf.length = frameLen s.stripLen

/-- In INIT the flag is set: no transfer has been attempted since reset (R14, R96). -/
def State.InitIsDirty (s : State) : Prop := s.phase = .init → s.dirty = true

/-- The buffer of the last transfer attempted. -/
def State.lastBuffer (s : State) : Option (List Byte) := s.transfers.getLast?.map BusTransfer.buffer

/-- With the flag clear, `WIREBUF` and the last transfer attempted hold the frame of the store as it is now
(R14, R32, R33; "attempted" is not "delivered", R34). -/
def State.CleanIsAttempted (s : State) : Prop :=
  s.dirty = false → s.wirebuf = frameOf s.leds ∧ s.lastBuffer = some (frameOf s.leds)

/-- A transfer as the block makes it on a strip of `n` LEDs (R86, R51): the buffer is the frame of some store with its
markers set, the length is `FRAME_LEN` and the buffer's own, the timeout is `TIMEOUT`, and with status OK the link
carried exactly the buffer (R69). -/
structure BusTransfer.Legal (n : Nat) (t : BusTransfer) : Prop where
  frame : ∃ leds : List LedEntry,
    leds.length = n ∧ (∀ e ∈ leds, e.marker = packetMarker) ∧ t.buffer = frameOf leds
  sized : t.buffer.length = t.length
  length : t.length = frameLen n
  timeout : t.timeout = Config.timeout
  delivered : t.status = .ok → t.carried = t.buffer

/-- Every transfer in the trace is legal. -/
def State.TransfersLegal (s : State) : Prop := ∀ t ∈ s.transfers, t.Legal s.stripLen

/-- The invariant of the block. -/
structure State.Inv (s : State) : Prop where
  stripBounded : s.StripBounded
  markersSet : s.MarkersSet
  wirebufSized : s.WirebufSized
  initIsDirty : s.InitIsDirty
  cleanIsAttempted : s.CleanIsAttempted
  transfersLegal : s.TransfersLegal

/-! ## Runs -/

/-- The state of a next outcome. -/
def nextState? : Host.Outcome State Fault Refusal → Option State
  | .next s => some s
  | .fault _ => none
  | .refused _ => none

/-- The rules of a sequence of commands applied in order (R31), stopping at the first stop. -/
def execSeq : List Instr → State → Host.Outcome State Fault Refusal
  | [], s => .next s
  | i :: is, s =>
    match exec i s with
    | .next t => execSeq is t
    | .fault r => .fault r
    | .refused r => .refused r

/-- The eight setters (spec/00_scope.md section 8, "Setter"). -/
def isSetter : Instr → Bool
  | .setcol .. => true
  | .setcolAll .. => true
  | .setrgb .. => true
  | .setrgbAll .. => true
  | .setill .. => true
  | .setillAll .. => true
  | .ledoff .. => true
  | .ledon .. => true
  | .serialize => false
  | .update .. => false
  | .packrgb .. => false
  | .packargb .. => false
  | .unpka .. => false
  | .unpkr .. => false
  | .unpkg .. => false
  | .unpkb .. => false

/-- `DIRTY` after a sequence of commands, from R14 alone: set by a setter, clear after an `UPDATE`, else kept. -/
def dirtyAfter (d : Bool) : List Instr → Bool
  | [] => d
  | .update _ :: is => dirtyAfter false is
  | i :: is => dirtyAfter (isSetter i || d) is

/-- How many transfers a sequence of commands attempts, from R68 alone: one for each `UPDATE` that finds the flag set
or has force 1. -/
def transfersOf (d : Bool) : List Instr → Nat
  | [] => 0
  | .update force :: is => (if d || force then 1 else 0) + transfersOf false is
  | i :: is => transfersOf (isSetter i || d) is

/-- The host's inputs that issue a sequence of commands. -/
def issue (is : List Instr) : List HostInput := is.map fun i => .cmd (encode i)

/-! ## Words the statements use -/

/-- The row of R45 with this mask and match is the command `build` makes of the word, and of no other word. -/
def DecodesAs (mask pattern : CmdWord) (build : CmdWord → Instr) : Prop :=
  ∀ w, w &&& mask = pattern ↔ decode w = .ok (build w)

/-- What every setter does and leaves alone beside the entries (R14; "State not touched" of R57 to R65): `DIRTY` is
set, `WIREBUF` and `PHASE` are kept, nothing is handed to the bus or the response channel, `N` is kept. -/
structure SetterFrame (s t : State) : Prop where
  dirty : t.dirty = true
  wirebuf : t.wirebuf = s.wirebuf
  phase : t.phase = s.phase
  trace : t.trace = s.trace
  host : t.host = s.host
  draws : t.draws = s.draws
  stripLen : t.leds.length = s.leds.length

/-- What a helper does (R72 to R77): one response beat, marked as the last, and nothing else. -/
def RespondsOnly (s t : State) (v : Beat) : Prop := t = { s with trace := s.trace ++ [.respond v true] }

/-- Two outcomes agree in the spec's state (`LED`, `DIRTY`, `WIREBUF`, `PHASE`) and in the host's inputs still to come,
or refuse for the same reason; trace and draws may differ. -/
def AgreesButTrace (o p : Host.Outcome State Fault Refusal) : Prop :=
  match o, p with
  | .next t, .next u =>
    t.leds = u.leds ∧ t.dirty = u.dirty ∧ t.wirebuf = u.wirebuf ∧ t.phase = u.phase ∧ t.host = u.host
  | .refused q, .refused r => q = r
  | _, _ => False

end Sys2Proof.Machine
end

