-- ==== Sys2Proof/Certificates/Slice0/Obligations.lean ====
section
/-! DEFINITION. The statements for the provers. Each docstring names the rule of spec/ it formalises. -/

open Sys2Proof Sys2Proof.Machine

/-! ## Encoding -/

/-- R56: `Decode(Encode(c)) = c` for every command, every operand at every value of its field. -/
def Obligations.DecodeOfEncodeIsIdentity : Prop :=
  ∀ i : Instr, decode (encode i) = .ok i

/-- R56: `Encode(Decode(w)) = w` for every non-reserved `w`. -/
def Obligations.EncodeOfDecodeIsIdentity : Prop :=
  ∀ (w : CmdWord) (i : Instr), decode w = .ok i → encode i = w

/-- R45: "A word `w` is the command of a row if and only if `w & mask = match`"; 16 rows and no others. -/
def Obligations.OpcodeMapDecidesTheCommand : Prop :=
  opcodeTable.length = 16 ∧
  (∀ w : CmdWord, ∀ row ∈ opcodeTable,
    (w &&& row.mask = row.pattern ↔ ∃ i, decode w = .ok i ∧ i.mnemonic = row.mnemonic)) ∧
  (∀ (w : CmdWord) (i : Instr), decode w = .ok i → ∃ row ∈ opcodeTable, w &&& row.mask = row.pattern)

/-- "The rows' (mask, match) sets are pairwise disjoint" (a sentence of R45 that the spec marks as derived from the
table): a word that two rows accept shows that they are one row. -/
def Obligations.OpcodeRowsAreDisjoint : Prop :=
  ∀ w : CmdWord, ∀ row ∈ opcodeTable, ∀ row' ∈ opcodeTable,
    w &&& row.mask = row.pattern → w &&& row'.mask = row'.pattern → row.mnemonic = row'.mnemonic

/-- R46: which words are reserved, which of the two kinds of defect each has, and that the step refuses such a word when
the host presents it. -/
def Obligations.ReservedWordsAreNamedByDefect : Prop :=
  ∀ w : CmdWord,
    let op := w.extractLsb' 56 8
    let assigned : List (BitVec 8) :=
      [0x10, 0x11, 0x12, 0x13, 0x14, 0x15, 0x16, 0x17, 0x20, 0x21, 0x30, 0x31, 0x32, 0x33, 0x34, 0x35]
    let withIndex : List (BitVec 8) := [0x10, 0x12, 0x14, 0x16, 0x17]
    (decode w = .error .unassignedOpcode ↔ op ∉ assigned) ∧
    (decode w = .error .reservedBits ↔
      op ∈ assigned ∧
        (w.extractLsb' 48 8 ≠ 0 ∨
          (op ∉ withIndex ∧ w.extractLsb' 32 16 ≠ 0) ∨
          (op ∈ ([0x10, 0x12, 0x11, 0x13, 0x30] : List (BitVec 8)) ∧ w.extractLsb' 24 8 ≠ 0) ∨
          (op ∈ ([0x14, 0x15] : List (BitVec 8)) ∧ w.extractLsb' 5 27 ≠ 0) ∨
          (op ∈ ([0x16, 0x17, 0x20] : List (BitVec 8)) ∧ w.extractLsb' 0 32 ≠ 0) ∨
          (op = 0x21 ∧ w.extractLsb' 1 31 ≠ 0))) ∧
    ((∃ e, decode w = .error e) ↔ ∀ row ∈ opcodeTable, w &&& row.mask ≠ row.pattern) ∧
    ∀ (e : DecodeError) (s : State) (rest : List HostInput), decode w = .error e →
      s.phase = .idle → s.host = .cmd w :: rest → ∃ r, step s = .refused r

/-- Words written out in spec/95_test_vectors.md (families A to E), one of each group and two reserved ones. -/
def Obligations.WrittenOutWordsDecode : Prop :=
  decode 0x1000000300123456 = .ok (.setcol 3 0x12 0x34 0x56) ∧
  decode 0x120000010000FF80 = .ok (.setrgb 1 0x00FF80) ∧
  decode 0x140000000000001F = .ok (.setill 0 31) ∧
  decode 0x1600000200000000 = .ok (.ledoff 2) ∧
  decode 0x2000000000000000 = .ok .serialize ∧
  decode 0x2100000000000001 = .ok (.update true) ∧
  decode 0x31000000FFFFFFFF = .ok (.packargb 255 255 255 255) ∧
  decode 0x0000000000000000 = .error .unassignedOpcode ∧
  decode 0x1400000000000020 = .error .reservedBits

/-- R54: a line whose numerals fit their fields stands for exactly one command, one that does not fit is refused
("an assembly error, not a truncation"); every command can be written, and its line means that command. -/
def Obligations.AssemblyIsExactOnFittingNumerals : Prop :=
  (∀ a : Asm, (∃ i, a.assemble = some i) ↔ a.wellFormed = true) ∧
  (∀ i : Instr, i.toAsm.assemble = some i) ∧
  (∀ (a : Asm) (i : Instr), a ≠ .flush → a ≠ .sync → a.assemble = some i → i.toAsm = a)

/-! ## Wire formats -/

/-- R47: `Cmd(e) = {0b111, e.bright} = 0xE0 + e.bright` for an entry whose marker is set, 0xFF at brightness 31. -/
def Obligations.CmdByteIsMarkerAndBrightness : Prop :=
  ∀ e : LedEntry, e.marker = 0b111 →
    cmdByte e = 0b111#3 ++ e.bright ∧ cmdByte e = 0xE0#8 + e.bright.setWidth 8 ∧ 0xE0 ≤ (cmdByte e).toNat ∧
    (e.bright = 31 → cmdByte e = 0xFF)

/-- R48: `Packet(e) = [Cmd(e), e.blue, e.green, e.red]`, which are the bytes of `Word(e)` (R12) from its top byte down. -/
def Obligations.PacketIsCmdBlueGreenRed : Prop :=
  ∀ e : LedEntry,
    packet e = [cmdByte e, e.blue, e.green, e.red] ∧
    packet e = [(entryWord e).extractLsb' 24 8, (entryWord e).extractLsb' 16 8,
      (entryWord e).extractLsb' 8 8, (entryWord e).extractLsb' 0 8]

/-- R50, R28: the frame element by element: 0x00 for offsets 0 to 3, byte `j` of the packet of entry `i` at `4 + 4*i + j`,
0xFF for the last four offsets, and nothing beyond `7 + 4*N`. It depends on the LED store alone. -/
def Obligations.FrameIsLaidOutByOffset : Prop :=
  ∀ s : State,
    (∀ k, k < 4 → s.memRead k = some 0x00) ∧
    (∀ (i : Nat) (e : LedEntry), s.leds[i]? = some e → ∀ j, j < 4 → s.memRead (4 + 4 * i + j) = (packet e)[j]?) ∧
    (∀ k, k < 4 → s.memRead (4 + 4 * s.leds.length + k) = some 0xFF) ∧
    (∀ k, 8 + 4 * s.leds.length ≤ k → s.memRead k = none)

/-- R51: the frame of `N` entries has `8 + 4*N` bytes; byte `4 + 4*i` is at least 0xE0 where the markers are set; a packet
can equal the end marker; two stores give the same frame if and only if they agree in every field of every entry. -/
def Obligations.FrameLengthAndFaithfulness : Prop :=
  (∀ leds : List LedEntry, (frameOf leds).length = 8 + 4 * leds.length) ∧
  (∀ s : State, s.MarkersSet → ∀ i, i < s.leds.length → ∃ b, s.memRead (4 + 4 * i) = some b ∧ 0xE0 ≤ b.toNat) ∧
  packet ⟨0b111, 31, 255, 255, 255⟩ = [0xFF, 0xFF, 0xFF, 0xFF] ∧
  (∀ leds leds' : List LedEntry, frameOf leds = frameOf leds' ↔ leds = leds')

/-- R25: the bit string of a byte sequence on the link has 8 bits a byte, most significant bit first, byte 0 first. -/
def Obligations.WireBitsAreMostSignificantFirst : Prop :=
  ∀ f : List Byte,
    (wireBits f).length = 8 * f.length ∧
    ∀ (k : Nat) (b : Byte), f[k]? = some b → ∀ j, j < 8 → (wireBits f)[8 * k + j]? = some (b.getLsbD (7 - j))

/-! ## Colour setters -/

/-- R57, `SETCOL idx, r, g, b`. -/
def Obligations.SetcolWritesOneEntry : Prop :=
  DecodesAs 0xFFFF0000FF000000 0x1000000000000000
    (fun w => .setcol (w.extractLsb' 32 16) (w.extractLsb' 16 8) (w.extractLsb' 8 8) (w.extractLsb' 0 8)) ∧
  ∀ (idx : Index) (r g b : Byte) (s : State), ∃ t, exec (.setcol idx r g b) s = .next t ∧ SetterFrame s t ∧
    (idx.toNat < s.leds.length →
      t.leds[idx.toNat]? = some { marker := 0b111, bright := 31, blue := b, green := g, red := r }) ∧
    (s.leds.length ≤ idx.toNat → t.leds = s.leds) ∧
    ∀ j, j ≠ idx.toNat → t.leds[j]? = s.leds[j]?

/-- R58, `SETCOL.ALL r, g, b`. -/
def Obligations.SetcolAllWritesEveryEntry : Prop :=
  DecodesAs 0xFFFFFFFFFF000000 0x1100000000000000
    (fun w => .setcolAll (w.extractLsb' 16 8) (w.extractLsb' 8 8) (w.extractLsb' 0 8)) ∧
  ∀ (r g b : Byte) (s : State), ∃ t, exec (.setcolAll r g b) s = .next t ∧ SetterFrame s t ∧
    ∀ i, i < s.leds.length →
      t.leds[i]? = some { marker := 0b111, bright := 31, blue := b, green := g, red := r }

/-- R59, `SETRGB idx, p24`: red from bits 23:16, green from 15:8, blue from 7:0; an index out of range is rejected and
marks dirty, it is not clamped. -/
def Obligations.SetrgbWritesOneEntry : Prop :=
  DecodesAs 0xFFFF0000FF000000 0x1200000000000000
    (fun w => .setrgb (w.extractLsb' 32 16) (w.extractLsb' 0 24)) ∧
  ∀ (idx : Index) (p24 : Packed24) (s : State), ∃ t, exec (.setrgb idx p24) s = .next t ∧ SetterFrame s t ∧
    (idx.toNat < s.leds.length →
      t.leds[idx.toNat]? = some { marker := 0b111, bright := 31, blue := p24.extractLsb' 0 8,
                                  green := p24.extractLsb' 8 8, red := p24.extractLsb' 16 8 }) ∧
    (s.leds.length ≤ idx.toNat → t.leds = s.leds) ∧
    ∀ j, j ≠ idx.toNat → t.leds[j]? = s.leds[j]?

/-- R60, `SETRGB.ALL p24`. -/
def Obligations.SetrgbAllWritesEveryEntry : Prop :=
  DecodesAs 0xFFFFFFFFFF000000 0x1300000000000000 (fun w => .setrgbAll (w.extractLsb' 0 24)) ∧
  ∀ (p24 : Packed24) (s : State), ∃ t, exec (.setrgbAll p24) s = .next t ∧ SetterFrame s t ∧
    ∀ i, i < s.leds.length →
      t.leds[i]? = some { marker := 0b111, bright := 31, blue := p24.extractLsb' 0 8,
                          green := p24.extractLsb' 8 8, red := p24.extractLsb' 16 8 }

/-- R61: the bytes a colour setter puts in the frame; a rejected one changes no byte and the next `UPDATE 0` still
attempts a transfer. The clauses for SETRGB are those for SETCOL with `p24 = {r, g, b}`. -/
def Obligations.ColourSettersWriteFrameBytes : Prop :=
  ∀ (idx : Index) (r g b : Byte) (s : State),
    (∀ i ∈ [Instr.setcol idx r g b, Instr.setrgb idx (r ++ g ++ b)], ∃ t, exec i s = .next t ∧
      (idx.toNat < s.leds.length →
        t.memRead (4 + 4 * idx.toNat) = some 0xFF ∧ t.memRead (5 + 4 * idx.toNat) = some b ∧
        t.memRead (6 + 4 * idx.toNat) = some g ∧ t.memRead (7 + 4 * idx.toNat) = some r) ∧
      (∀ a, ¬(4 + 4 * idx.toNat ≤ a ∧ a < 8 + 4 * idx.toNat) → t.memRead a = s.memRead a) ∧
      (s.leds.length ≤ idx.toNat →
        (∀ a, t.memRead a = s.memRead a) ∧
        ∃ u tr, exec (.update false) t = .next u ∧ u.transfers = s.transfers ++ [tr] ∧ tr.buffer = frameOf s.leds)) ∧
    (∀ i ∈ [Instr.setcolAll r g b, Instr.setrgbAll (r ++ g ++ b)], ∃ t, exec i s = .next t ∧
      ∀ k, k < s.leds.length →
        t.memRead (4 + 4 * k) = some 0xFF ∧ t.memRead (5 + 4 * k) = some b ∧
        t.memRead (6 + 4 * k) = some g ∧ t.memRead (7 + 4 * k) = some r)

/-! ## Illumination setters -/

/-- R62, `SETILL idx, level`. -/
def Obligations.SetillWritesBrightnessOnly : Prop :=
  DecodesAs 0xFFFF0000FFFFFFE0 0x1400000000000000 (fun w => .setill (w.extractLsb' 32 16) (w.extractLsb' 0 5)) ∧
  ∀ (idx : Index) (level : Level) (s : State), ∃ t, exec (.setill idx level) s = .next t ∧ SetterFrame s t ∧
    (∀ e : LedEntry, s.leds[idx.toNat]? = some e →
      t.leds[idx.toNat]? =
        some { marker := e.marker, bright := level, blue := e.blue, green := e.green, red := e.red }) ∧
    (s.leds.length ≤ idx.toNat → t.leds = s.leds) ∧
    ∀ j, j ≠ idx.toNat → t.leds[j]? = s.leds[j]?

/-- R63, `SETILL.ALL level`. That it is SETILL applied to every index the spec marks as its own reading ("this spec reads
it so, by the name and by the shared description"). -/
def Obligations.SetillAllWritesEveryBrightness : Prop :=
  DecodesAs 0xFFFFFFFFFFFFFFE0 0x1500000000000000 (fun w => .setillAll (w.extractLsb' 0 5)) ∧
  ∀ (level : Level) (s : State), ∃ t, exec (.setillAll level) s = .next t ∧ SetterFrame s t ∧
    ∀ (i : Nat) (e : LedEntry), s.leds[i]? = some e →
      t.leds[i]? = some { marker := e.marker, bright := level, blue := e.blue, green := e.green, red := e.red }

/-- R64, `LEDOFF idx`: brightness 0, the colour kept. Its behaviour out of range the spec marks as derived ("the behaviour
follows from its general invariant"). -/
def Obligations.LedoffClearsBrightness : Prop :=
  DecodesAs 0xFFFF0000FFFFFFFF 0x1600000000000000 (fun w => .ledoff (w.extractLsb' 32 16)) ∧
  ∀ (idx : Index) (s : State), ∃ t, exec (.ledoff idx) s = .next t ∧ SetterFrame s t ∧
    (∀ e : LedEntry, s.leds[idx.toNat]? = some e →
      t.leds[idx.toNat]? = some { marker := e.marker, bright := 0, blue := e.blue, green := e.green, red := e.red }) ∧
    (s.leds.length ≤ idx.toNat → t.leds = s.leds) ∧
    ∀ j, j ≠ idx.toNat → t.leds[j]? = s.leds[j]?

/-- R65, `LEDON idx`: brightness 31, whatever the level was. Its behaviour out of range the spec marks as derived, as for
R64. -/
def Obligations.LedonSetsFullBrightness : Prop :=
  DecodesAs 0xFFFF0000FFFFFFFF 0x1700000000000000 (fun w => .ledon (w.extractLsb' 32 16)) ∧
  ∀ (idx : Index) (s : State), ∃ t, exec (.ledon idx) s = .next t ∧ SetterFrame s t ∧
    (∀ e : LedEntry, s.leds[idx.toNat]? = some e →
      t.leds[idx.toNat]? = some { marker := e.marker, bright := 31, blue := e.blue, green := e.green, red := e.red }) ∧
    (s.leds.length ≤ idx.toNat → t.leds = s.leds) ∧
    ∀ j, j ≠ idx.toNat → t.leds[j]? = s.leds[j]?

/-- R66: an illumination setter changes, in the frame, only the CMD byte of an entry it addresses, to `0xE0 + v`. The
markers are set, as they are in every reachable state (R11, `InvariantIsKeptByEveryStep`). -/
def Obligations.IlluminationSettersChangeCmdByteOnly : Prop :=
  ∀ s : State, s.MarkersSet →
    (∀ (idx : Index) (level : Level), ∀ p ∈ [(Instr.setill idx level, level), (Instr.ledoff idx, 0), (Instr.ledon idx, 31)],
      ∃ t, exec p.1 s = .next t ∧
        (idx.toNat < s.leds.length → t.memRead (4 + 4 * idx.toNat) = some (0xE0#8 + p.2.setWidth 8)) ∧
        ∀ a, ¬(a = 4 + 4 * idx.toNat ∧ idx.toNat < s.leds.length) → t.memRead a = s.memRead a) ∧
    (∀ level : Level, ∃ t, exec (.setillAll level) s = .next t ∧
      (∀ i, i < s.leds.length → t.memRead (4 + 4 * i) = some (0xE0#8 + level.setWidth 8)) ∧
      ∀ a, (∀ i, i < s.leds.length → a ≠ 4 + 4 * i) → t.memRead a = s.memRead a)

/-! ## Properties of all setters -/

/-- R22: an index out of range is never clamped, wrapped or redirected: no entry changes and `DIRTY` is set, for the five
indexed setters; the next `UPDATE 0` attempts a transfer of the unchanged frame (R102). -/
def Obligations.OutOfRangeSetterIsRejectedButDirty : Prop :=
  ∀ (idx : Index) (s : State), s.leds.length ≤ idx.toNat → ∀ (r g b : Byte) (p24 : Packed24) (level : Level),
    ∀ i ∈ [Instr.setcol idx r g b, Instr.setrgb idx p24, Instr.setill idx level, Instr.ledoff idx, Instr.ledon idx],
      exec i s = .next { s with dirty := true } ∧
      ∃ u tr, exec (.update false) { s with dirty := true } = .next u ∧ u.leds = s.leds ∧
        u.trace = s.trace ++ [.busWrite tr] ∧ tr.buffer = frameOf s.leds

/-- R55: FLUSH is UPDATE 1 and SYNC is UPDATE 0; and the commands that are equal in effect (which the spec marks as
derived from R57, R59, R62, R64 and R65). -/
def Obligations.CommandsEqualInEffect : Prop :=
  Asm.flush.assemble = some (.update true) ∧ Asm.sync.assemble = some (.update false) ∧
  ∀ s : State,
    (∀ idx : Index, exec (.ledoff idx) s = exec (.setill idx 0) s) ∧
    (∀ idx : Index, exec (.ledon idx) s = exec (.setill idx 31) s) ∧
    (∀ (idx : Index) (p : Packed24), exec (.setrgb idx p) s =
      exec (.setcol idx (p.extractLsb' 16 8) (p.extractLsb' 8 8) (p.extractLsb' 0 8)) s) ∧
    (∀ p : Packed24, exec (.setrgbAll p) s =
      exec (.setcolAll (p.extractLsb' 16 8) (p.extractLsb' 8 8) (p.extractLsb' 0 8)) s)

/-- R27: executing the same setter twice in a row leaves the same `LED` and `DIRTY` as executing it once. -/
def Obligations.SettersAreIdempotent : Prop :=
  ∀ (i : Instr) (s : State), isSetter i = true →
    ∃ t u, exec i s = .next t ∧ exec i t = .next u ∧ u.leds = t.leds ∧ u.dirty = t.dirty

/-! ## SERIALIZE and UPDATE -/

/-- R67, `SERIALIZE`: the frame is latched and returned as `8 + 4*N` beats, one frame byte a beat, zero-extended, the last
beat alone marked; `LED`, `DIRTY` and `PHASE` are kept and nothing is handed to the bus. -/
def Obligations.SerializeRespondsWithTheFrame : Prop :=
  DecodesAs 0xFFFFFFFFFFFFFFFF 0x2000000000000000 (fun _ => .serialize) ∧
  ∀ s : State, ∃ t evs, exec .serialize s = .next t ∧
    t.wirebuf = frameOf s.leds ∧ t.leds = s.leds ∧ t.dirty = s.dirty ∧ t.phase = s.phase ∧ t.host = s.host ∧
    t.draws = s.draws ∧ t.transfers = s.transfers ∧
    t.trace = s.trace ++ evs ∧ evs.length = 8 + 4 * s.leds.length ∧
    ∀ (k : Nat) (b : Byte), (frameOf s.leds)[k]? = some b →
      evs[k]? = some (.respond (b.setWidth 32) (decide (k + 1 = 8 + 4 * s.leds.length)))

/-- R68, `UPDATE force`: with `DIRTY = 1` or force 1, one transfer of `Serialize(LED)`, whole, and `DIRTY` cleared whatever
the status; otherwise nothing happens. `LED` and `PHASE` are never touched; `DIRTY = 0` after every `UPDATE`. -/
def Obligations.UpdateTransfersIfDirtyOrForced : Prop :=
  DecodesAs 0xFFFFFFFFFFFFFFFE 0x2100000000000000 (fun w => .update (w.getLsbD 0)) ∧
  ∀ (force : Bool) (s : State), ∃ t, exec (.update force) s = .next t ∧
    t.leds = s.leds ∧ t.phase = s.phase ∧ t.host = s.host ∧ t.dirty = false ∧
    ((s.dirty = true ∨ force = true) → t.wirebuf = frameOf s.leds ∧
      ∃ tr, t.trace = s.trace ++ [.busWrite tr] ∧ tr.buffer = frameOf s.leds ∧
        tr.length = 8 + 4 * s.leds.length ∧ tr.timeout = Config.timeout) ∧
    (s.dirty = false → force = false → t = s)

/-- R68 (corner case): two calls of `UPDATE 0` with no setter between them transfer once if `DIRTY` was 1, and not at all
if it was 0. -/
def Obligations.SecondUpdateDoesNothing : Prop :=
  ∀ s : State, ∃ t, exec (.update false) s = .next t ∧ exec (.update false) t = .next t ∧
    t.transfers.length = s.transfers.length + (if s.dirty then 1 else 0)

/-- R69, R83: whatever the status of a transfer, OK or FAIL, the block does not retry, does not report and clears `DIRTY`;
with status OK the link carried exactly the frame; a later `UPDATE 0` sends nothing, `UPDATE 1` sends the same frame again. -/
def Obligations.FailedTransferIsNotRetriedOrReported : Prop :=
  ∀ (force : Bool) (s : State), (s.dirty = true ∨ force = true) →
    ∃ t tr, exec (.update force) s = .next t ∧ t.trace = s.trace ++ [.busWrite tr] ∧
      t.leds = s.leds ∧ t.dirty = false ∧
      (tr.status = .ok → tr.carried = frameOf s.leds) ∧
      exec (.update false) t = .next t ∧
      ∃ u tr', exec (.update true) t = .next u ∧ u.trace = t.trace ++ [.busWrite tr'] ∧ tr'.buffer = frameOf s.leds

/-! ## Colour packing helpers -/

/-- R72, `PACKRGB r, g, b`: one beat `(r << 16) | (g << 8) | b`, bits 31:24 zero. -/
def Obligations.PackrgbRespondsPackedColour : Prop :=
  DecodesAs 0xFFFFFFFFFF000000 0x3000000000000000
    (fun w => .packrgb (w.extractLsb' 16 8) (w.extractLsb' 8 8) (w.extractLsb' 0 8)) ∧
  ∀ (r g b : Byte) (s : State), ∃ t, exec (.packrgb r g b) s = .next t ∧
    RespondsOnly s t (r.setWidth 32 <<< 16 ||| g.setWidth 32 <<< 8 ||| b.setWidth 32)

/-- R73, `PACKARGB a, r, g, b`: one beat `(a << 24) | (r << 16) | (g << 8) | b`. -/
def Obligations.PackargbRespondsArgbWord : Prop :=
  DecodesAs 0xFFFFFFFF00000000 0x3100000000000000
    (fun w => .packargb (w.extractLsb' 24 8) (w.extractLsb' 16 8) (w.extractLsb' 8 8) (w.extractLsb' 0 8)) ∧
  ∀ (a r g b : Byte) (s : State), ∃ t, exec (.packargb a r g b) s = .next t ∧
    RespondsOnly s t (a.setWidth 32 <<< 24 ||| r.setWidth 32 <<< 16 ||| g.setWidth 32 <<< 8 ||| b.setWidth 32)

/-- R74, `UNPKA word`: one beat `(word >> 24) & 0xFF`. -/
def Obligations.UnpkaRespondsAlpha : Prop :=
  DecodesAs 0xFFFFFFFF00000000 0x3200000000000000 (fun w => .unpka (w.extractLsb' 0 32)) ∧
  ∀ (word : Beat) (s : State), ∃ t, exec (.unpka word) s = .next t ∧ RespondsOnly s t (word >>> 24 &&& 0xFF)

/-- R75, `UNPKR word`: one beat `(word >> 16) & 0xFF`. -/
def Obligations.UnpkrRespondsRed : Prop :=
  DecodesAs 0xFFFFFFFF00000000 0x3300000000000000 (fun w => .unpkr (w.extractLsb' 0 32)) ∧
  ∀ (word : Beat) (s : State), ∃ t, exec (.unpkr word) s = .next t ∧ RespondsOnly s t (word >>> 16 &&& 0xFF)

/-- R76, `UNPKG word`: one beat `(word >> 8) & 0xFF`. -/
def Obligations.UnpkgRespondsGreen : Prop :=
  DecodesAs 0xFFFFFFFF00000000 0x3400000000000000 (fun w => .unpkg (w.extractLsb' 0 32)) ∧
  ∀ (word : Beat) (s : State), ∃ t, exec (.unpkg word) s = .next t ∧ RespondsOnly s t (word >>> 8 &&& 0xFF)

/-- R77, `UNPKB word`: one beat `word & 0xFF`. -/
def Obligations.UnpkbRespondsBlue : Prop :=
  DecodesAs 0xFFFFFFFF00000000 0x3500000000000000 (fun w => .unpkb (w.extractLsb' 0 32)) ∧
  ∀ (word : Beat) (s : State), ∃ t, exec (.unpkb word) s = .next t ∧ RespondsOnly s t (word &&& 0xFF)

/-- R78: the round-trip law, both directions. -/
def Obligations.PackAndUnpackAreInverse : Prop :=
  (∀ r g b : Byte, unpackRed (packRGB r g b) = r ∧ unpackGreen (packRGB r g b) = g ∧ unpackBlue (packRGB r g b) = b) ∧
  (∀ a r g b : Byte, unpackAlpha (packARGB a r g b) = a ∧ unpackRed (packARGB a r g b) = r ∧
    unpackGreen (packARGB a r g b) = g ∧ unpackBlue (packARGB a r g b) = b) ∧
  (∀ x : Beat, packARGB (unpackAlpha x) (unpackRed x) (unpackGreen x) (unpackBlue x) = x)

/-- R79: `SETRGB idx, PackRGB(r, g, b)[23:0]` has the effect of `SETCOL idx, r, g, b`, in range and out of range, and the
fields `SETRGB` extracts are those the unpack functions give of the zero-extended operand. -/
def Obligations.SetrgbOfPackedColourIsSetcol : Prop :=
  (∀ (idx : Index) (r g b : Byte) (s : State),
    exec (.setrgb idx ((packRGB r g b).extractLsb' 0 24)) s = exec (.setcol idx r g b) s) ∧
  (∀ p24 : Packed24,
    unpackRed (p24.setWidth 32) = p24.extractLsb' 16 8 ∧ unpackGreen (p24.setWidth 32) = p24.extractLsb' 8 8 ∧
    unpackBlue (p24.setWidth 32) = p24.extractLsb' 0 8)

/-! ## Reset and construction -/

/-- R20: the state right after reset, for a strip of any length, and what the construction sequence leaves of it; the
machine's own reset state is one of these, with a length that R5 allows. (Which length that is, is the model's choice, log
entry 1, and the statement does not name it.) -/
def Obligations.ResetStateHasTheSpecsValues : Prop :=
  (∀ n : Nat,
    (State.resetWith n).leds.length = n ∧
    (∀ i, i < n → (State.resetWith n).leds[i]? = some { marker := 0b111, bright := 0, blue := 0, green := 0, red := 0 }) ∧
    (State.resetWith n).dirty = true ∧ (State.resetWith n).phase = .init ∧
    ∃ t, step (State.resetWith n) = .next t ∧ t.leds = (State.resetWith n).leds ∧ t.dirty = false ∧
      t.wirebuf = frameOf (State.resetWith n).leds ∧ t.phase = .idle) ∧
  entryWord { marker := 0b111, bright := 0, blue := 0, green := 0, red := 0 } = 0xE0000000 ∧
  ∃ n, 1 ≤ n ∧ n ≤ 65536 ∧ State.reset = State.resetWith n

/-- R96, and R97 (which the spec marks as derived from it): after reset the block runs one unconditional update on its own: one transfer of `F0`, then `DIRTY = 0`,
`WIREBUF = F0`, `PHASE = IDLE`, the trace `Reset, BusWrite(F0, st)`. -/
def Obligations.ConstructionTransfersTheResetFrame : Prop :=
  ∀ n : Nat, ∃ t tr, step (State.resetWith n) = .next t ∧
    t.leds = List.replicate n (LedEntry.mk 0b111 0 0 0 0) ∧
    t.dirty = false ∧ t.phase = .idle ∧
    t.wirebuf = [0, 0, 0, 0] ++ (List.replicate n [0xE0, 0, 0, 0]).flatten ++ [0xFF, 0xFF, 0xFF, 0xFF] ∧
    t.trace = [.reset, .busWrite tr] ∧ tr.buffer = t.wirebuf ∧ tr.length = 8 + 4 * n ∧ tr.timeout = Config.timeout

/-- R98: reset in any state with no transfer running: nothing of `LED`, `DIRTY`, `PHASE` survives, whatever they were.
`N` is kept (R5). That `WIREBUF` keeps its content until the construction sequence writes it is the model's choice (log
entry 2): R17 says that reset does not write it, but leaves its value there unspecified, and U9 allows any; that the trace
is kept and `Reset` appended is the model's bookkeeping (log entry 9). -/
def Obligations.ResetDiscardsEverything : Prop :=
  ∀ (s : State) (rest : List HostInput), s.host = .rst :: rest →
    ∃ t, step s = .next t ∧
      t.leds = List.replicate s.leds.length (LedEntry.mk 0b111 0 0 0 0) ∧
      t.dirty = true ∧ t.phase = .init ∧ t.wirebuf = s.wirebuf ∧ t.trace = s.trace ++ [.reset] ∧ t.host = rest

/-- R98: a reset during the transfer of an `UPDATE`, or of the construction sequence, abandons it: it is recorded as
`BusWrite(frame, FAIL)`, and the block starts the construction sequence from its beginning. That this is two steps, the
cut transfer and then the reset, is the model's form of it (log entry 7). -/
def Obligations.ResetDuringTransferRecordsFail : Prop :=
  ∀ (s : State) (rest : List HostInput) (force : Bool),
    ((s.phase = .idle ∧ (s.dirty = true ∨ force = true) ∧
        s.host = .cmd (encode (.update force)) :: .rstInTransfer :: rest) ∨
      (s.phase = .init ∧ s.host = .rstInTransfer :: rest)) →
    ∃ t tr u, step s = .next t ∧ t.trace = s.trace ++ [.busWrite tr] ∧
      tr.buffer = frameOf s.leds ∧ tr.status = .fail ∧
      step t = .next u ∧ u.trace = t.trace ++ [.reset] ∧ u.host = rest ∧ u.phase = .init ∧ u.dirty = true ∧
      u.leds = List.replicate s.leds.length (LedEntry.mk 0b111 0 0 0 0)

/-! ## The step -/

/-- R43, R31: in IDLE the word presented is accepted, and the step is the meaning of the command it decodes to, with that
input taken from the host's sequence. -/
def Obligations.StepRunsTheDecodedCommand : Prop :=
  ∀ (s : State) (w : CmdWord) (rest : List HostInput) (i : Instr),
    s.phase = .idle → s.host = .cmd w :: rest → decode w = .ok i → step s = exec i { s with host := rest }

/-- R43, R16: in INIT no command is accepted: the construction sequence runs, and a word presented meanwhile is not lost
and not executed early. -/
def Obligations.CommandWaitsForConstruction : Prop :=
  ∀ (s : State) (w : CmdWord) (rest : List HostInput), s.phase = .init → s.host = .cmd w :: rest →
    ∃ t tr, step s = .next t ∧ t.phase = .idle ∧ t.host = .cmd w :: rest ∧ t.leds = s.leds ∧ t.dirty = false ∧
      t.trace = s.trace ++ [.busWrite tr]

/-- R93: "Between commands the block is idle and keeps all its state". That this is a step, which takes a quiet moment off
the host's sequence if one stands there, is the model's reading (log entry 11). -/
def Obligations.IdleBlockKeepsItsState : Prop :=
  (∀ s : State, s.phase = .idle → s.host = [] → step s = .next s) ∧
  (∀ (s : State) (rest : List HostInput), s.phase = .idle → s.host = .quiet :: rest → step s = .next { s with host := rest })

/-- R84, with R88's decoding first: a reserved command word, accepted in IDLE, is refused, and no other word on the command
port is. That the step also answers when nothing is presented or a moment is quiet is the model's reading (log entry 11),
that it answers a reset is log entry 7's form of R98, and that it never faults is R85. -/
def Obligations.OnlyReservedWordsAreRefused : Prop :=
  ∀ s : State,
    ((∃ r, step s = .refused r) ↔
      s.phase = .idle ∧ ∃ w rest, s.host = .cmd w :: rest ∧ ∀ row ∈ opcodeTable, w &&& row.mask ≠ row.pattern) ∧
    ((∃ t, step s = .next t) ∨ ∃ r, step s = .refused r)

/-- R85, R81: from IDLE the block executes any command, whatever its operands and whatever the bus answers, and is ready
again. -/
def Obligations.BlockIsReadyAgainAfterEveryCommand : Prop :=
  ∀ (i : Instr) (s : State) (rest : List HostInput), s.phase = .idle → s.host = .cmd (encode i) :: rest →
    ∃ t, step s = .next t ∧ t.cmdReady = true ∧ t.host = rest

/-! ## Whole-machine rules -/

/-- The invariant (the model's own, log entry 19, from R5, R11, R14, R16, R17, R86) holds right after reset, for every strip length R5
allows. -/
def Obligations.InvariantHoldsAtReset : Prop :=
  State.reset.Inv ∧ ∀ n, 1 ≤ n → n ≤ 65536 → (State.resetWith n).Inv

/-- R11 and the rest of the invariant: every step keeps it. -/
def Obligations.InvariantIsKeptByEveryStep : Prop :=
  ∀ s t : State, s.Inv → step s = .next t → t.Inv

/-- R5: "strip length is immutable after construction", whatever the block does. -/
def Obligations.StripLengthIsImmutable : Prop :=
  ∀ s t : State, step s = .next t → t.stripLen = s.stripLen

/-- The trace is "the model's record of what the block did that the outside can see", events "in order of occurrence"
(spec/00_scope.md section 8, "Trace"). That it is never cleared, not by a reset either, is the model's own bookkeeping (log
entry 9). -/
def Obligations.TraceOnlyGrows : Prop :=
  ∀ s t : State, step s = .next t → s.trace <+: t.trace

/-- R3: "Nothing reaches the link except through an update request ... or through reset": a command other than `UPDATE`
attempts no transfer, and a step attempts one only in the construction sequence or for an `UPDATE`. -/
def Obligations.LinkIsReachedOnlyByUpdateOrConstruction : Prop :=
  (∀ (i : Instr) (s t : State), (∀ force, i ≠ .update force) → exec i s = .next t →
    t.transfers = s.transfers ∧ t.linkCarried = s.linkCarried) ∧
  (∀ s t : State, step s = .next t → t.transfers ≠ s.transfers →
    s.phase = .init ∨ ∃ force rest, s.host = .cmd (encode (.update force)) :: rest)

/-- R30: reads have no side effects: SERIALIZE and the six helpers leave `LED`, `DIRTY` and `PHASE` as they were, and the
helpers leave `WIREBUF` too. -/
def Obligations.ReadsHaveNoSideEffects : Prop :=
  ∀ (i : Instr) (s : State), isSetter i = false → (∀ force, i ≠ .update force) →
    ∃ t, exec i s = .next t ∧ t.leds = s.leds ∧ t.dirty = s.dirty ∧ t.phase = s.phase ∧ t.host = s.host ∧
      t.draws = s.draws ∧ (i ≠ .serialize → t.wirebuf = s.wirebuf)

/-- R14, R68: over any sequence of commands, the flag at the end and the number of transfers are those that R14 and R68
give from the commands alone: the flag is set by any setter and cleared by any `UPDATE`, and an `UPDATE` transfers exactly
if the flag is set or force is 1. -/
def Obligations.DirtyAndTransfersFollowTheCommands : Prop :=
  ∀ (is : List Instr) (s : State), ∃ t, execSeq is s = .next t ∧
    t.dirty = dirtyAfter s.dirty is ∧ t.transfers.length = s.transfers.length + transfersOf s.dirty is

/-- R31: "the state after a sequence of commands is the result of applying their rules in that order, and nothing else":
the block executes the host's commands one at a time, in the order issued, each complete before the next: a run of
as many steps as commands leaves the state that applying their rules in that order gives. -/
def Obligations.CommandsTakeEffectInOrder : Prop :=
  ∀ (is : List Instr) (s : State), s.phase = .idle → s.host = [] →
    ∃ t, execSeq is s = .next t ∧ Host.Core.run Sys2Proof.core is.length { s with host := issue is } = .next t

/-- R69, R86: the block ignores the bus status: what it does to `LED`, `DIRTY`, `WIREBUF` and `PHASE` does not depend on
the environment's earlier or present draws nor on what the link has carried. -/
def Obligations.BusStatusDoesNotInfluenceTheState : Prop :=
  ∀ (s : State) (trace : List Event) (draws : Nat),
    AgreesButTrace (step s) (step { s with trace := trace, draws := draws })

/-- A reset that the host marks as falling into a transfer, in IDLE with no transfer running: it acts as any other reset
of R98. That this input exists, and acts so, is the model's form (log entry 7); that `WIREBUF` keeps its content is the
model's choice (log entry 2). -/
def Obligations.ResetInTransferWithoutTransferIsAReset : Prop :=
  ∀ (s : State) (rest : List HostInput), s.phase = .idle → s.host = .rstInTransfer :: rest →
    step s = step { s with host := .rst :: rest } ∧
    ∃ t, step s = .next t ∧
      t.leds = List.replicate s.leds.length (LedEntry.mk 0b111 0 0 0 0) ∧
      t.dirty = true ∧ t.phase = .init ∧ t.wirebuf = s.wirebuf ∧ t.trace = s.trace ++ [.reset] ∧ t.host = rest
end

