-- ==== Sys2Proof/Laws/Word.lean ====
section
/-! SUPPORT. The bytes of a 32-bit value written as four bytes, and the reserved parts a mask selects: the bit-level facts
behind the operand fields (spec/30_encoding.md R38, R39) and the packed colours (R52, R53). -/

namespace Sys2Proof

section
variable (a r g b : Byte)

theorem fourBytes_byte3 : (a ++ r ++ g ++ b : Beat).extractLsb' 24 8 = a := by
  apply BitVec.eq_of_getLsbD_eq
  intro i hi
  simp only [BitVec.getLsbD_append, BitVec.getLsbD_extractLsb', hi, decide_true, Bool.true_and]
  rw [if_neg (by omega), if_neg (by omega), if_neg (by omega)]
  congr 1; omega

theorem fourBytes_byte2 : (a ++ r ++ g ++ b : Beat).extractLsb' 16 8 = r := by
  apply BitVec.eq_of_getLsbD_eq
  intro i hi
  simp only [BitVec.getLsbD_append, BitVec.getLsbD_extractLsb', hi, decide_true, Bool.true_and]
  rw [if_neg (by omega), if_neg (by omega), if_pos (by omega)]
  congr 1; omega

theorem fourBytes_byte1 : (a ++ r ++ g ++ b : Beat).extractLsb' 8 8 = g := by
  apply BitVec.eq_of_getLsbD_eq
  intro i hi
  simp only [BitVec.getLsbD_append, BitVec.getLsbD_extractLsb', hi, decide_true, Bool.true_and]
  rw [if_neg (by omega), if_pos (by omega)]
  congr 1; omega

theorem fourBytes_byte0 : (a ++ r ++ g ++ b : Beat).extractLsb' 0 8 = b := by
  apply BitVec.eq_of_getLsbD_eq
  intro i hi
  simp only [BitVec.getLsbD_append, BitVec.getLsbD_extractLsb', hi, decide_true, Bool.true_and]
  rw [if_pos (by omega)]
  congr 1; omega

end

/-- A 32-bit value is its four bytes. -/
theorem beat_eq_bytes (x : Beat) :
    x = x.extractLsb' 24 8 ++ x.extractLsb' 16 8 ++ x.extractLsb' 8 8 ++ x.extractLsb' 0 8 := by
  apply BitVec.eq_of_getLsbD_eq
  intro i hi
  rw [BitVec.getLsbD_append, BitVec.getLsbD_append, BitVec.getLsbD_append]
  simp only [BitVec.getLsbD_extractLsb']
  split_ifs <;> (rw [decide_eq_true (by omega), Bool.true_and]; congr 1; omega)

/-- The part of a value from bit `k` up is zero exactly if the value under a mask of those bits is: the mask is given by
its own bits. -/
theorem and_mask_eq_zero_iff {k : Nat} (hk : k ≤ 32) (d mask : Beat)
    (hm : ∀ i, i < 32 → mask.getLsbD i = decide (k ≤ i)) : d &&& mask = 0 ↔ d.extractLsb' k (32 - k) = 0 := by
  constructor
  · intro h
    apply BitVec.eq_of_getLsbD_eq
    intro i hi
    have := congrArg (fun x : Beat => x.getLsbD (k + i)) h
    simp only [BitVec.getLsbD_and, hm (k + i) (by omega)] at this
    simpa [hi] using this
  · intro h
    apply BitVec.eq_of_getLsbD_eq
    intro i hi
    rw [BitVec.getLsbD_and, hm i hi]
    by_cases hki : k ≤ i
    · have := congrArg (fun x => x.getLsbD (i - k)) h
      simp only [BitVec.getLsbD_extractLsb', decide_eq_true (show i - k < 32 - k by omega), Bool.true_and,
        show k + (i - k) = i by omega] at this
      simpa [hki] using this
    · simp [hki]

/-- The reserved part of `DATA` in formats IC and AC (R38). -/
theorem and_highByte_eq_zero_iff (d : Beat) : d &&& 0xFF000000 = 0 ↔ d.extractLsb' 24 8 = 0 :=
  and_mask_eq_zero_iff (k := 24) (by omega) d _ (by decide)

/-- The reserved part of `DATA` in formats IL and AL (R38). -/
theorem and_aboveLevel_eq_zero_iff (d : Beat) : d &&& 0xFFFFFFE0 = 0 ↔ d.extractLsb' 5 27 = 0 :=
  and_mask_eq_zero_iff (k := 5) (by omega) d _ (by decide)

/-- The reserved part of `DATA` in format F (R38). -/
theorem and_aboveForce_eq_zero_iff (d : Beat) : d &&& 0xFFFFFFFE = 0 ↔ d.extractLsb' 1 31 = 0 :=
  and_mask_eq_zero_iff (k := 1) (by omega) d _ (by decide)

/-- All of `DATA` is reserved in formats IX and Z (R38). -/
theorem and_allBits (d : Beat) : d &&& 0xFFFFFFFF = d := by
  have : (0xFFFFFFFF : Beat) = BitVec.allOnes 32 := rfl
  rw [this, BitVec.and_allOnes]

theorem index_and_allBits (d : Index) : d &&& 0xFFFF = d := by
  have : (0xFFFF : Index) = BitVec.allOnes 16 := rfl
  rw [this, BitVec.and_allOnes]

end Sys2Proof
end

