-- ==== Sys2Proof/Laws/Decode.lean ====
section
/-! SUPPORT. What the decoder can do, said once: the four fields determine a word, a row accepts a word exactly if the
opcode is its own and the reserved parts are zero, and the decoder answers with the one row that accepts. -/

namespace Sys2Proof

/-! ## A word and its four fields -/

section
variable (op rsv : BitVec 8) (idx : Index) (d : Beat)

theorem opField_append : opField (op ++ rsv ++ idx ++ d) = op := by
  unfold opField
  apply BitVec.eq_of_getLsbD_eq
  intro i hi
  simp only [BitVec.getLsbD_append, BitVec.getLsbD_extractLsb', hi, decide_true, Bool.true_and]
  rw [if_neg (by omega), if_neg (by omega), if_neg (by omega)]
  congr 1; omega

theorem rsvField_append : rsvField (op ++ rsv ++ idx ++ d) = rsv := by
  unfold rsvField
  apply BitVec.eq_of_getLsbD_eq
  intro i hi
  simp only [BitVec.getLsbD_append, BitVec.getLsbD_extractLsb', hi, decide_true, Bool.true_and]
  rw [if_neg (by omega), if_neg (by omega), if_pos (by omega)]
  congr 1; omega

theorem idxField_append : idxField (op ++ rsv ++ idx ++ d) = idx := by
  unfold idxField
  apply BitVec.eq_of_getLsbD_eq
  intro i hi
  simp only [BitVec.getLsbD_append, BitVec.getLsbD_extractLsb', hi, decide_true, Bool.true_and]
  rw [if_neg (by omega), if_pos (by omega)]
  congr 1; omega

theorem dataField_append : dataField (op ++ rsv ++ idx ++ d) = d := by
  unfold dataField
  apply BitVec.eq_of_getLsbD_eq
  intro i hi
  simp only [BitVec.getLsbD_append, BitVec.getLsbD_extractLsb', hi, decide_true, Bool.true_and]
  rw [if_pos (by omega)]
  congr 1; omega

end

/-- A word is its four fields, OP at the top (R37). -/
theorem word_eq_fields (w : CmdWord) : w = opField w ++ rsvField w ++ idxField w ++ dataField w := by
  unfold opField rsvField idxField dataField
  apply BitVec.eq_of_getLsbD_eq
  intro i hi
  rw [BitVec.getLsbD_append, BitVec.getLsbD_append, BitVec.getLsbD_append]
  simp only [BitVec.getLsbD_extractLsb']
  split_ifs <;> (rw [decide_eq_true (by omega), Bool.true_and]; congr 1; omega)

/-- Two words are equal exactly if their four fields are. -/
theorem word_ext_iff {v w : CmdWord} :
    v = w ↔ opField v = opField w ∧ rsvField v = rsvField w ∧ idxField v = idxField w ∧ dataField v = dataField w := by
  constructor
  · rintro rfl; exact ⟨rfl, rfl, rfl, rfl⟩
  · rintro ⟨h1, h2, h3, h4⟩
    rw [word_eq_fields v, word_eq_fields w, h1, h2, h3, h4]

section
variable (op : BitVec 8) (idx : Index) (d : Beat)
@[simp] theorem opField_commandWord : opField (commandWord op idx d) = op := opField_append ..
@[simp] theorem rsvField_commandWord : rsvField (commandWord op idx d) = 0 := rsvField_append ..
@[simp] theorem idxField_commandWord : idxField (commandWord op idx d) = idx := idxField_append ..
@[simp] theorem dataField_commandWord : dataField (commandWord op idx d) = d := dataField_append ..
end

theorem opField_and (v w : CmdWord) : opField (v &&& w) = opField v &&& opField w := by
  simp only [opField, BitVec.extractLsb'_and]
theorem rsvField_and (v w : CmdWord) : rsvField (v &&& w) = rsvField v &&& rsvField w := by
  simp only [rsvField, BitVec.extractLsb'_and]
theorem idxField_and (v w : CmdWord) : idxField (v &&& w) = idxField v &&& idxField w := by
  simp only [idxField, BitVec.extractLsb'_and]
theorem dataField_and (v w : CmdWord) : dataField (v &&& w) = dataField v &&& dataField w := by
  simp only [dataField, BitVec.extractLsb'_and]

/-- The operand fields of `DATA` are fields of `dataField` (R37, R39). -/
theorem dataField_extract (w : CmdWord) (k n : Nat) (h : k + n ≤ 32) :
    (dataField w).extractLsb' k n = w.extractLsb' k n := by
  unfold dataField
  apply BitVec.eq_of_getLsbD_eq
  intro i hi
  simp only [BitVec.getLsbD_extractLsb']
  rw [decide_eq_true (show k + i < 32 by omega), Bool.true_and]
  congr 2; omega

/-- An operand field of a word that is written as a command word. -/
theorem commandWord_extract (op : BitVec 8) (idx : Index) (d : Beat) (k n : Nat) (h : k + n ≤ 32) :
    (commandWord op idx d).extractLsb' k n = d.extractLsb' k n := by
  rw [← dataField_extract _ k n h, dataField_commandWord]

/-! ## Rows -/

/-- Every format fixes OP and RSV (R38). -/
theorem Format.mask_op (fmt : Format) : opField fmt.mask = 0xFF := by cases fmt <;> rfl
theorem Format.mask_rsv (fmt : Format) : rsvField fmt.mask = 0xFF := by cases fmt <;> rfl

/-- A word under a format's mask is a bare opcode exactly if the opcode is that one and the reserved parts are zero
(R46). -/
theorem and_mask_eq_iff (w : CmdWord) (fmt : Format) (op : BitVec 8) :
    w &&& fmt.mask = commandWord op 0 0 ↔
      opField w = op ∧ rsvField w = 0 ∧ idxField w &&& idxField fmt.mask = 0 ∧ dataField w &&& dataField fmt.mask = 0 := by
  have h (x : BitVec 8) : x &&& 0xFF = x := by
    have : (0xFF : BitVec 8) = BitVec.allOnes 8 := rfl
    rw [this, BitVec.and_allOnes]
  simp only [word_ext_iff, opField_and, rsvField_and, idxField_and, dataField_and, Format.mask_op, Format.mask_rsv, h,
    opField_commandWord, rsvField_commandWord, idxField_commandWord, dataField_commandWord]

/-- The match of a row is its bare opcode (R45). -/
theorem OpRow.pattern_eq {r : OpRow} (h : r ∈ opcodeTable) : r.pattern = commandWord (opField r.pattern) 0 0 := by
  have e : opcodeTable.map OpRow.pattern = opcodeTable.map fun r => commandWord (opField r.pattern) 0 0 := rfl
  exact List.map_inj_left.1 e r h

theorem OpRow.accepts_iff {r : OpRow} (w : CmdWord) : r.accepts w = true ↔ w &&& r.mask = r.pattern := by
  simp [OpRow.accepts]

/-- When a row of the table accepts a word. -/
theorem OpRow.accepts_iff_fields {r : OpRow} (h : r ∈ opcodeTable) (w : CmdWord) :
    w &&& r.mask = r.pattern ↔
      opField w = opField r.pattern ∧ rsvField w = 0 ∧ idxField w &&& idxField r.mask = 0 ∧
        dataField w &&& dataField r.mask = 0 := by
  have := and_mask_eq_iff w r.format (opField r.pattern)
  rwa [← OpRow.pattern_eq h] at this

/-- The sixteen opcode values differ (R45). -/
theorem opcodes_nodup : (opcodeTable.map fun r => opField r.pattern).Nodup := by decide

/-- At most one row accepts a word (R45). -/
theorem OpRow.eq_of_accepts {r r' : OpRow} (h : r ∈ opcodeTable) (h' : r' ∈ opcodeTable) {w : CmdWord}
    (a : w &&& r.mask = r.pattern) (a' : w &&& r'.mask = r'.pattern) : r = r' :=
  List.inj_on_of_nodup_map opcodes_nodup h h'
    (((OpRow.accepts_iff_fields h w).1 a).1.symm.trans ((OpRow.accepts_iff_fields h' w).1 a').1)

/-- A row makes commands of its own name (R45). -/
theorem OpRow.build_mnemonic {r : OpRow} (h : r ∈ opcodeTable) (w : CmdWord) : (r.build w).mnemonic = r.mnemonic := by
  have e : (opcodeTable.map fun r => (r.build w).mnemonic) = opcodeTable.map OpRow.mnemonic := rfl
  exact List.map_inj_left.1 e r h

/-- The sixteen names differ (R45). -/
theorem mnemonics_nodup : (opcodeTable.map OpRow.mnemonic).Nodup := by decide

/-- Rows of one name are one row. -/
theorem OpRow.eq_of_mnemonic {r r' : OpRow} (h : r ∈ opcodeTable) (h' : r' ∈ opcodeTable)
    (e : r.mnemonic = r'.mnemonic) : r = r' :=
  List.inj_on_of_nodup_map mnemonics_nodup h h' e

/-! ## The decoder -/

/-- What the decoder can answer: the command of a row that accepts the word, or the name of the word's defect where no row
does. -/
theorem decode_cases (w : CmdWord) :
    (∃ r ∈ opcodeTable, w &&& r.mask = r.pattern ∧ decode w = .ok (r.build w)) ∨
    ((∀ r ∈ opcodeTable, w &&& r.mask ≠ r.pattern) ∧ decode w = .error (decodeErrorOf w)) := by
  unfold decode
  split
  · next r h =>
    exact .inl ⟨r, List.mem_of_find?_eq_some h, (OpRow.accepts_iff w).1 (by simpa using List.find?_some h), rfl⟩
  · next h =>
    refine .inr ⟨fun r hr a => ?_, rfl⟩
    exact List.find?_eq_none.1 h r hr ((OpRow.accepts_iff w).2 a)

/-- The decoder answers with the row that accepts. -/
theorem decode_of_accepts {r : OpRow} (h : r ∈ opcodeTable) {w : CmdWord} (a : w &&& r.mask = r.pattern) :
    decode w = .ok (r.build w) := by
  obtain ⟨r', h', a', e⟩ | ⟨n, -⟩ := decode_cases w
  · rw [e, OpRow.eq_of_accepts h h' a a']
  · exact absurd a (n r h)

end Sys2Proof
end

