-- ==== Sys2Proof/Laws/State.lean ====
section
/-! SUPPORT. One lemma per field per update of the state, so that no later proof unfolds a record update. -/

namespace Sys2Proof.Machine

variable (s : State)

/-! ### `DIRTY <- 1` -/

@[simp] theorem State.setDirty_leds : (s.setDirty).leds = s.leds := rfl
@[simp] theorem State.setDirty_dirty : (s.setDirty).dirty = true := rfl
@[simp] theorem State.setDirty_wirebuf : (s.setDirty).wirebuf = s.wirebuf := rfl
@[simp] theorem State.setDirty_phase : (s.setDirty).phase = s.phase := rfl
@[simp] theorem State.setDirty_host : (s.setDirty).host = s.host := rfl
@[simp] theorem State.setDirty_trace : (s.setDirty).trace = s.trace := rfl
@[simp] theorem State.setDirty_draws : (s.setDirty).draws = s.draws := rfl

/-! ### `DIRTY <- 0` -/

@[simp] theorem State.clearDirty_leds : (s.clearDirty).leds = s.leds := rfl
@[simp] theorem State.clearDirty_dirty : (s.clearDirty).dirty = false := rfl
@[simp] theorem State.clearDirty_wirebuf : (s.clearDirty).wirebuf = s.wirebuf := rfl
@[simp] theorem State.clearDirty_phase : (s.clearDirty).phase = s.phase := rfl
@[simp] theorem State.clearDirty_host : (s.clearDirty).host = s.host := rfl
@[simp] theorem State.clearDirty_trace : (s.clearDirty).trace = s.trace := rfl
@[simp] theorem State.clearDirty_draws : (s.clearDirty).draws = s.draws := rfl

/-! ### a write of every entry -/

@[simp] theorem State.modifyAll_leds (f : LedEntry → LedEntry) : (s.modifyAll f).leds = s.leds.map f := rfl
@[simp] theorem State.modifyAll_dirty (f : LedEntry → LedEntry) : (s.modifyAll f).dirty = s.dirty := rfl
@[simp] theorem State.modifyAll_wirebuf (f : LedEntry → LedEntry) : (s.modifyAll f).wirebuf = s.wirebuf := rfl
@[simp] theorem State.modifyAll_phase (f : LedEntry → LedEntry) : (s.modifyAll f).phase = s.phase := rfl
@[simp] theorem State.modifyAll_host (f : LedEntry → LedEntry) : (s.modifyAll f).host = s.host := rfl
@[simp] theorem State.modifyAll_trace (f : LedEntry → LedEntry) : (s.modifyAll f).trace = s.trace := rfl
@[simp] theorem State.modifyAll_draws (f : LedEntry → LedEntry) : (s.modifyAll f).draws = s.draws := rfl

/-! ### `WIREBUF <- Serialize(LED)` -/

@[simp] theorem State.latchFrame_leds : (s.latchFrame).leds = s.leds := rfl
@[simp] theorem State.latchFrame_dirty : (s.latchFrame).dirty = s.dirty := rfl
@[simp] theorem State.latchFrame_wirebuf : (s.latchFrame).wirebuf = frameOf s.leds := rfl
@[simp] theorem State.latchFrame_phase : (s.latchFrame).phase = s.phase := rfl
@[simp] theorem State.latchFrame_host : (s.latchFrame).host = s.host := rfl
@[simp] theorem State.latchFrame_trace : (s.latchFrame).trace = s.trace := rfl
@[simp] theorem State.latchFrame_draws : (s.latchFrame).draws = s.draws := rfl

/-! ### a response -/

@[simp] theorem State.respond_leds (beats : List Beat) : (s.respond beats).leds = s.leds := rfl
@[simp] theorem State.respond_dirty (beats : List Beat) : (s.respond beats).dirty = s.dirty := rfl
@[simp] theorem State.respond_wirebuf (beats : List Beat) : (s.respond beats).wirebuf = s.wirebuf := rfl
@[simp] theorem State.respond_phase (beats : List Beat) : (s.respond beats).phase = s.phase := rfl
@[simp] theorem State.respond_host (beats : List Beat) : (s.respond beats).host = s.host := rfl
@[simp] theorem State.respond_trace (beats : List Beat) : (s.respond beats).trace = s.trace ++ responseEvents beats := rfl
@[simp] theorem State.respond_draws (beats : List Beat) : (s.respond beats).draws = s.draws := rfl

/-! ### one transfer -/

@[simp] theorem State.busWrite_leds : (s.busWrite).leds = s.leds := rfl
@[simp] theorem State.busWrite_dirty : (s.busWrite).dirty = s.dirty := rfl
@[simp] theorem State.busWrite_wirebuf : (s.busWrite).wirebuf = s.wirebuf := rfl
@[simp] theorem State.busWrite_phase : (s.busWrite).phase = s.phase := rfl
@[simp] theorem State.busWrite_host : (s.busWrite).host = s.host := rfl
@[simp] theorem State.busWrite_trace : (s.busWrite).trace = s.trace ++ [.busWrite s.nextTransfer] := rfl
@[simp] theorem State.busWrite_draws : (s.busWrite).draws = s.draws + 1 := rfl

/-! ### an asserted reset -/

@[simp] theorem State.assertReset_leds : (s.assertReset).leds = List.replicate s.stripLen resetEntry := rfl
@[simp] theorem State.assertReset_dirty : (s.assertReset).dirty = true := rfl
@[simp] theorem State.assertReset_wirebuf : (s.assertReset).wirebuf = s.wirebuf := rfl
@[simp] theorem State.assertReset_phase : (s.assertReset).phase = .init := rfl
@[simp] theorem State.assertReset_host : (s.assertReset).host = s.host := rfl
@[simp] theorem State.assertReset_trace : (s.assertReset).trace = s.trace ++ [.reset] := rfl
@[simp] theorem State.assertReset_draws : (s.assertReset).draws = s.draws := rfl

/-! ### taking the host's next input -/

@[simp] theorem State.popHost_leds : (s.popHost).leds = s.leds := rfl
@[simp] theorem State.popHost_dirty : (s.popHost).dirty = s.dirty := rfl
@[simp] theorem State.popHost_wirebuf : (s.popHost).wirebuf = s.wirebuf := rfl
@[simp] theorem State.popHost_phase : (s.popHost).phase = s.phase := rfl
@[simp] theorem State.popHost_host : (s.popHost).host = s.host.tail := rfl
@[simp] theorem State.popHost_trace : (s.popHost).trace = s.trace := rfl
@[simp] theorem State.popHost_draws : (s.popHost).draws = s.draws := rfl

/-! ### presenting a word -/

@[simp] theorem State.present_leds (w : CmdWord) : (s.present w).leds = s.leds := rfl
@[simp] theorem State.present_dirty (w : CmdWord) : (s.present w).dirty = s.dirty := rfl
@[simp] theorem State.present_wirebuf (w : CmdWord) : (s.present w).wirebuf = s.wirebuf := rfl
@[simp] theorem State.present_phase (w : CmdWord) : (s.present w).phase = s.phase := rfl
@[simp] theorem State.present_host (w : CmdWord) : (s.present w).host = .cmd w :: s.host := rfl
@[simp] theorem State.present_trace (w : CmdWord) : (s.present w).trace = s.trace := rfl
@[simp] theorem State.present_draws (w : CmdWord) : (s.present w).draws = s.draws := rfl

/-! ### serialize, transfer, clear -/

@[simp] theorem State.transmit_leds : (s.transmit).leds = s.leds := rfl
@[simp] theorem State.transmit_dirty : (s.transmit).dirty = false := rfl
@[simp] theorem State.transmit_wirebuf : (s.transmit).wirebuf = frameOf s.leds := rfl
@[simp] theorem State.transmit_phase : (s.transmit).phase = s.phase := rfl
@[simp] theorem State.transmit_host : (s.transmit).host = s.host := rfl
@[simp] theorem State.transmit_trace : (s.transmit).trace = s.trace ++ [.busWrite s.latchFrame.nextTransfer] := rfl
@[simp] theorem State.transmit_draws : (s.transmit).draws = s.draws + 1 := rfl

/-! ### the construction sequence's update -/

@[simp] theorem State.construct_leds : (s.construct).leds = s.leds := rfl
@[simp] theorem State.construct_dirty : (s.construct).dirty = false := rfl
@[simp] theorem State.construct_wirebuf : (s.construct).wirebuf = frameOf s.leds := rfl
@[simp] theorem State.construct_phase : (s.construct).phase = .idle := rfl
@[simp] theorem State.construct_host : (s.construct).host = s.host := rfl
@[simp] theorem State.construct_trace : (s.construct).trace = s.trace ++ [.busWrite s.latchFrame.nextTransfer] := rfl
@[simp] theorem State.construct_draws : (s.construct).draws = s.draws + 1 := rfl

/-! ### a checked write of one entry -/

/-- Out of range nothing is written (R22), which is what `List.modify` does there too. -/
@[simp] theorem State.modifyLed_leds (idx : Index) (f : LedEntry → LedEntry) :
    (s.modifyLed idx f).leds = s.leds.modify idx.toNat f := by
  unfold State.modifyLed State.inRange State.stripLen
  split
  · rfl
  · next h => exact (List.modify_eq_self (by simpa using h)).symm

@[simp] theorem State.modifyLed_dirty (idx : Index) (f : LedEntry → LedEntry) :
    (s.modifyLed idx f).dirty = s.dirty := by unfold State.modifyLed; split <;> rfl
@[simp] theorem State.modifyLed_wirebuf (idx : Index) (f : LedEntry → LedEntry) :
    (s.modifyLed idx f).wirebuf = s.wirebuf := by unfold State.modifyLed; split <;> rfl
@[simp] theorem State.modifyLed_phase (idx : Index) (f : LedEntry → LedEntry) :
    (s.modifyLed idx f).phase = s.phase := by unfold State.modifyLed; split <;> rfl
@[simp] theorem State.modifyLed_host (idx : Index) (f : LedEntry → LedEntry) :
    (s.modifyLed idx f).host = s.host := by unfold State.modifyLed; split <;> rfl
@[simp] theorem State.modifyLed_trace (idx : Index) (f : LedEntry → LedEntry) :
    (s.modifyLed idx f).trace = s.trace := by unfold State.modifyLed; split <;> rfl
@[simp] theorem State.modifyLed_draws (idx : Index) (f : LedEntry → LedEntry) :
    (s.modifyLed idx f).draws = s.draws := by unfold State.modifyLed; split <;> rfl

/-! ### a quiet moment -/

@[simp] theorem State.dropQuiet_leds : s.dropQuiet.leds = s.leds := by unfold State.dropQuiet; split <;> rfl
@[simp] theorem State.dropQuiet_dirty : s.dropQuiet.dirty = s.dirty := by unfold State.dropQuiet; split <;> rfl
@[simp] theorem State.dropQuiet_wirebuf : s.dropQuiet.wirebuf = s.wirebuf := by unfold State.dropQuiet; split <;> rfl
@[simp] theorem State.dropQuiet_phase : s.dropQuiet.phase = s.phase := by unfold State.dropQuiet; split <;> rfl
@[simp] theorem State.dropQuiet_trace : s.dropQuiet.trace = s.trace := by unfold State.dropQuiet; split <;> rfl
@[simp] theorem State.dropQuiet_draws : s.dropQuiet.draws = s.draws := by unfold State.dropQuiet; split <;> rfl

/-! ### the strip length is no write's effect (R5) -/

@[simp] theorem State.setDirty_stripLen : (s.setDirty).stripLen = s.stripLen := rfl
@[simp] theorem State.clearDirty_stripLen : (s.clearDirty).stripLen = s.stripLen := rfl
@[simp] theorem State.modifyAll_stripLen (f : LedEntry → LedEntry) : (s.modifyAll f).stripLen = s.stripLen := by simp [State.stripLen]
@[simp] theorem State.latchFrame_stripLen : (s.latchFrame).stripLen = s.stripLen := rfl
@[simp] theorem State.respond_stripLen (beats : List Beat) : (s.respond beats).stripLen = s.stripLen := rfl
@[simp] theorem State.busWrite_stripLen : (s.busWrite).stripLen = s.stripLen := rfl
@[simp] theorem State.assertReset_stripLen : (s.assertReset).stripLen = s.stripLen := by simp [State.stripLen]
@[simp] theorem State.popHost_stripLen : (s.popHost).stripLen = s.stripLen := rfl
@[simp] theorem State.present_stripLen (w : CmdWord) : (s.present w).stripLen = s.stripLen := rfl
@[simp] theorem State.transmit_stripLen : (s.transmit).stripLen = s.stripLen := rfl
@[simp] theorem State.construct_stripLen : (s.construct).stripLen = s.stripLen := rfl
@[simp] theorem State.modifyLed_stripLen (idx : Index) (f : LedEntry → LedEntry) :
    (s.modifyLed idx f).stripLen = s.stripLen := by simp [State.stripLen]
@[simp] theorem State.dropQuiet_stripLen : s.dropQuiet.stripLen = s.stripLen := by simp [State.stripLen]

end Sys2Proof.Machine
end

