-- ==== Sys2Proof/Laws/Wire.lean ====
section
/-! SUPPORT. The packets of a store by offset: the one induction behind every statement about frame bytes. -/

namespace Sys2Proof.Machine

@[simp] theorem packet_length (e : LedEntry) : (packet e).length = 4 := rfl
@[simp] theorem startMarker_length : startMarker.length = 4 := rfl
@[simp] theorem endMarker_length : endMarker.length = 4 := rfl

/-- The packets alone take four bytes an entry. -/
theorem packets_length (leds : List LedEntry) : (leds.flatMap packet).length = 4 * leds.length := by
  induction leds with
  | nil => rfl
  | cons e es ih => simp only [List.flatMap_cons, List.length_append, packet_length, ih, List.length_cons]; omega

/-- Byte `j` of packet `i` stands at offset `4*i + j` of the packets. -/
theorem packets_getElem? (leds : List LedEntry) (i j : Nat) (hj : j < 4) :
    (leds.flatMap packet)[4 * i + j]? = (leds[i]?).bind fun e => (packet e)[j]? := by
  induction leds generalizing i with
  | nil => simp
  | cons e es ih =>
    rw [List.flatMap_cons]
    cases i with
    | zero => rw [List.getElem?_append_left (by simpa using hj)]; simp
    | succ i =>
      have o : 4 * (i + 1) + j - (packet e).length = 4 * i + j := by simp; omega
      rw [List.getElem?_append_right (by simp; omega), o, ih i, List.getElem?_cons_succ]

/-- The packets determine the entries: every bit of an entry is in its packet. -/
theorem packet_injective : Function.Injective packet := by
  intro e e' h
  have hc : cmdByte e = cmdByte e' := (List.cons.inj h).1
  have hm := congrArg (fun b : Byte => b.extractLsb' 5 3) hc
  have hb := congrArg (fun b : Byte => b.extractLsb' 0 5) hc
  have key (x : LedEntry) : (cmdByte x).extractLsb' 5 3 = x.marker ∧ (cmdByte x).extractLsb' 0 5 = x.bright := by
    unfold cmdByte
    constructor
    · apply BitVec.eq_of_getLsbD_eq
      intro i hi
      simp only [BitVec.getLsbD_append, BitVec.getLsbD_extractLsb', hi, decide_true, Bool.true_and]
      rw [if_neg (by omega)]; congr 1; omega
    · apply BitVec.eq_of_getLsbD_eq
      intro i hi
      simp only [BitVec.getLsbD_append, BitVec.getLsbD_extractLsb', hi, decide_true, Bool.true_and]
      rw [if_pos (by omega)]; congr 1; omega
  simp only [(key e).1, (key e').1, (key e).2, (key e').2] at hm hb
  cases e; cases e'
  simp_all [packet]

end Sys2Proof.Machine
end

