-- ==== Sys2Proof/Laws/Ops.lean ====
section
/-! SUPPORT. What the shared operations can do, said once each: the beats of a response, the transfers an operation
adds to the trace, and how much of the state an operation reads. -/

namespace Sys2Proof.Machine

/-! ## Responses (R42) -/

@[simp] theorem responseEvents_length (vs : List Beat) : (responseEvents vs).length = vs.length := by
  induction vs with
  | nil => rfl
  | cons v vs ih => cases vs with
    | nil => rfl
    | cons w ws => simpa [responseEvents] using ih

/-- Beat `k` carries value `k`, and the last beat alone is marked. -/
theorem responseEvents_getElem? (vs : List Beat) (k : Nat) :
    (responseEvents vs)[k]? = (vs[k]?).map fun v => .respond v (decide (k + 1 = vs.length)) := by
  induction vs generalizing k with
  | nil => simp [responseEvents]
  | cons v vs ih => cases vs with
    | nil => cases k <;> simp [responseEvents]
    | cons w ws => cases k with
      | zero => simp [responseEvents]
      | succ k => simpa [responseEvents] using ih k

/-- A response is no transfer. -/
@[simp] theorem responseEvents_transfers (vs : List Beat) : (responseEvents vs).filterMap Event.transfer? = [] := by
  induction vs with
  | nil => rfl
  | cons v vs ih => cases vs with
    | nil => rfl
    | cons w ws => simpa [responseEvents, Event.transfer?] using ih

/-! ## Transfers -/

variable (s : State)

theorem State.transfers_eq : s.transfers = s.trace.filterMap Event.transfer? := rfl

@[simp] theorem State.setDirty_transfers : s.setDirty.transfers = s.transfers := rfl
@[simp] theorem State.popHost_transfers : s.popHost.transfers = s.transfers := rfl
@[simp] theorem State.latchFrame_transfers : s.latchFrame.transfers = s.transfers := rfl
@[simp] theorem State.modifyAll_transfers (f : LedEntry → LedEntry) : (s.modifyAll f).transfers = s.transfers := rfl
@[simp] theorem State.modifyLed_transfers (idx : Index) (f : LedEntry → LedEntry) :
    (s.modifyLed idx f).transfers = s.transfers := by simp [State.transfers]
@[simp] theorem State.dropQuiet_transfers : s.dropQuiet.transfers = s.transfers := by simp [State.transfers]
@[simp] theorem State.respond_transfers (vs : List Beat) : (s.respond vs).transfers = s.transfers := by
  simp [State.transfers]
@[simp] theorem State.assertReset_transfers : s.assertReset.transfers = s.transfers := by
  simp [State.transfers, Event.transfer?]
@[simp] theorem State.transmit_transfers : s.transmit.transfers = s.transfers ++ [s.latchFrame.nextTransfer] := by
  simp [State.transfers, Event.transfer?]
@[simp] theorem State.construct_transfers : s.construct.transfers = s.transfers ++ [s.latchFrame.nextTransfer] := by
  simp [State.transfers, Event.transfer?]

/-- The transfer of an update or of construction (R86): the frame of the store, with its length and the timeout. -/
@[simp] theorem State.latchFrame_nextTransfer_buffer : s.latchFrame.nextTransfer.buffer = frameOf s.leds := rfl
@[simp] theorem State.latchFrame_nextTransfer_length : s.latchFrame.nextTransfer.length = frameLen s.stripLen := rfl
@[simp] theorem State.latchFrame_nextTransfer_timeout : s.latchFrame.nextTransfer.timeout = Config.timeout := rfl

/-- With status OK the link carried the buffer (R69). -/
theorem State.nextTransfer_carried (h : s.nextTransfer.status = .ok) : s.nextTransfer.carried = s.nextTransfer.buffer := by
  simp only [State.nextTransfer] at h ⊢
  rw [h]; rfl

/-- A reset that cuts the transfer makes it FAIL (R98). -/
theorem State.nextTransfer_status_of_cut (h : s.cutByReset = true) : s.nextTransfer.status = .fail := by
  simp [State.nextTransfer, State.nextStatus, h]

end Sys2Proof.Machine
end

