-- ==== Sys2Proof/Laws/Exec.lean ====
section
/-! SUPPORT. Inversion lemmas: the three shapes a command's meaning can have, and the four things a step can do. Every
statement over all commands or all steps is a case analysis over these. -/

namespace Sys2Proof.Machine

theorem State.modifyLed_eq (s : State) (idx : Index) (f : LedEntry → LedEntry) :
    s.modifyLed idx f = { s with leds := s.leds.modify idx.toNat f } := by
  cases h : s.modifyLed idx f
  simp only [State.mk.injEq]
  refine ⟨?_, ?_, ?_, ?_, ?_, ?_, ?_⟩
  · simpa [h] using s.modifyLed_leds idx f
  · simpa [h] using s.modifyLed_dirty idx f
  · simpa [h] using s.modifyLed_wirebuf idx f
  · simpa [h] using s.modifyLed_phase idx f
  · simpa [h] using s.modifyLed_host idx f
  · simpa [h] using s.modifyLed_trace idx f
  · simpa [h] using s.modifyLed_draws idx f

/-- A write keeps every marker set if the written entries have theirs set (R11). -/
theorem mem_modify {l : List LedEntry} {k : Nat} {f : LedEntry → LedEntry} {P : LedEntry → Prop}
    (hf : ∀ e, P e → P (f e)) (hl : ∀ e ∈ l, P e) : ∀ e ∈ l.modify k f, P e := by
  induction l generalizing k with
  | nil => simp
  | cons a l ih =>
    have ha := hl a (by simp)
    have hl' : ∀ e ∈ l, P e := fun e he => hl e (by simp [he])
    cases k with
    | zero =>
      intro e he
      rcases List.mem_cons.1 (by simpa using he) with rfl | he
      · exact hf a ha
      · exact hl' e he
    | succ k =>
      intro e he
      rcases List.mem_cons.1 (by simpa using he) with rfl | he
      · exact ha
      · exact ih hl' e he

/-- A write through one index, seen from outside. -/
theorem setter_of_modify {s : State} {o : Host.Outcome State Fault Refusal} (idx : Index) (f : LedEntry → LedEntry)
    (hf : ∀ e : LedEntry, e.marker = packetMarker → (f e).marker = packetMarker)
    (h : o = .next (s.modifyLed idx f).setDirty) :
    ∃ leds, o = .next { s with leds := leds, dirty := true } ∧ leds.length = s.leds.length ∧
      (s.MarkersSet → ∀ e ∈ leds, e.marker = packetMarker) :=
  ⟨s.leds.modify idx.toNat f, by rw [h, State.modifyLed_eq]; rfl, by simp, fun m => mem_modify hf m⟩

/-- A write of every entry, seen from outside. -/
theorem setter_of_map {s : State} {o : Host.Outcome State Fault Refusal} (f : LedEntry → LedEntry)
    (hf : ∀ e : LedEntry, e.marker = packetMarker → (f e).marker = packetMarker)
    (h : o = .next (s.modifyAll f).setDirty) :
    ∃ leds, o = .next { s with leds := leds, dirty := true } ∧ leds.length = s.leds.length ∧
      (s.MarkersSet → ∀ e ∈ leds, e.marker = packetMarker) := by
  refine ⟨s.leds.map f, by rw [h]; rfl, by simp, fun m e he => ?_⟩
  obtain ⟨x, hx, rfl⟩ := List.mem_map.1 he
  exact hf x (m x hx)

/-- A setter writes entries, keeps the markers and the strip length, sets `DIRTY`, and does nothing else. -/
theorem exec_setter {i : Instr} (hi : isSetter i = true) (s : State) :
    ∃ leds, exec i s = .next { s with leds := leds, dirty := true } ∧ leds.length = s.leds.length ∧
      (s.MarkersSet → ∀ e ∈ leds, e.marker = packetMarker) := by
  cases i with
  | setcol idx r g b => exact setter_of_modify idx (fun _ => fullOn r g b) (fun _ _ => rfl) rfl
  | setcolAll r g b => exact setter_of_map (fun _ => fullOn r g b) (fun _ _ => rfl) rfl
  | setrgb idx p => exact setter_of_modify idx (fun _ => fullOnPacked p) (fun _ _ => rfl) rfl
  | setrgbAll p => exact setter_of_map (fun _ => fullOnPacked p) (fun _ _ => rfl) rfl
  | setill idx l => exact setter_of_modify idx (fun e => e.withBright l) (fun _ h => h) rfl
  | setillAll l => exact setter_of_map (fun e => e.withBright l) (fun _ h => h) rfl
  | ledoff idx => exact setter_of_modify idx (fun e => e.withBright 0) (fun _ h => h) rfl
  | ledon idx => exact setter_of_modify idx (fun e => e.withBright brightMax) (fun _ h => h) rfl
  | serialize => simp [isSetter] at hi
  | update _ => simp [isSetter] at hi
  | packrgb _ _ _ => simp [isSetter] at hi
  | packargb _ _ _ _ => simp [isSetter] at hi
  | unpka _ => simp [isSetter] at hi
  | unpkr _ => simp [isSetter] at hi
  | unpkg _ => simp [isSetter] at hi
  | unpkb _ => simp [isSetter] at hi

/-- The three shapes of a command: a setter, an `UPDATE`, or a response that keeps everything but `WIREBUF`, which is kept
or holds the frame. -/
theorem exec_cases (i : Instr) (s : State) :
    isSetter i = true ∨
    (∃ force, i = .update force ∧ exec i s = .next (if s.mustTransmit force then s.transmit else s)) ∨
    (isSetter i = false ∧ (∀ force, i ≠ .update force) ∧ ∃ wirebuf vs,
      exec i s = .next { s with wirebuf := wirebuf, trace := s.trace ++ responseEvents vs } ∧
      (wirebuf = s.wirebuf ∨ (i = .serialize ∧ wirebuf = frameOf s.leds))) := by
  cases i with
  | setcol _ _ _ _ => exact .inl rfl
  | setcolAll _ _ _ => exact .inl rfl
  | setrgb _ _ => exact .inl rfl
  | setrgbAll _ => exact .inl rfl
  | setill _ _ => exact .inl rfl
  | setillAll _ => exact .inl rfl
  | ledoff _ => exact .inl rfl
  | ledon _ => exact .inl rfl
  | update force => exact .inr (.inl ⟨force, rfl, rfl⟩)
  | serialize => exact .inr (.inr ⟨rfl, nofun, _, _, rfl, .inr ⟨rfl, rfl⟩⟩)
  | packrgb _ _ _ => exact .inr (.inr ⟨rfl, nofun, s.wirebuf, _, rfl, .inl rfl⟩)
  | packargb _ _ _ _ => exact .inr (.inr ⟨rfl, nofun, s.wirebuf, _, rfl, .inl rfl⟩)
  | unpka _ => exact .inr (.inr ⟨rfl, nofun, s.wirebuf, _, rfl, .inl rfl⟩)
  | unpkr _ => exact .inr (.inr ⟨rfl, nofun, s.wirebuf, _, rfl, .inl rfl⟩)
  | unpkg _ => exact .inr (.inr ⟨rfl, nofun, s.wirebuf, _, rfl, .inl rfl⟩)
  | unpkb _ => exact .inr (.inr ⟨rfl, nofun, s.wirebuf, _, rfl, .inl rfl⟩)

/-- A run takes its first step, then the rest. -/
theorem run_next {M : Host.Core} {k : Nat} {x y : M.State} (h : M.step x = .next y) :
    Host.Core.run M (k + 1) x = Host.Core.run M k y := by
  rw [Host.Core.run, h]

/-- The four things a step with a next state can do. -/
theorem step_cases {s t : State} (h : step s = .next t) :
    t = s.popHost.assertReset ∨
    (s.phase = .init ∧ t = s.construct.dropQuiet) ∨
    (s.phase = .idle ∧ t = s.popHost) ∨
    (s.phase = .idle ∧ ∃ w rest i, s.host = .cmd w :: rest ∧ decode w = .ok i ∧ exec i s.popHost = .next t) := by
  unfold step at h
  split at h
  · exact .inl (by simpa using h.symm)
  · next e =>
    refine .inr (.inl ⟨?_, by simpa using h.symm⟩)
    unfold State.nextAction at e
    split at e <;> simp_all
  · next e =>
    refine .inr (.inr (.inl ⟨?_, by simpa using h.symm⟩))
    unfold State.nextAction at e
    split at e <;> simp_all
  · next w e =>
    have hw : s.phase = .idle ∧ ∃ rest, s.host = .cmd w :: rest := by
      unfold State.nextAction at e
      split at e <;> simp_all
    obtain ⟨hp, rest, hr⟩ := hw
    split at h
    · next i hi => exact .inr (.inr (.inr ⟨hp, w, rest, i, hr, hi, h⟩))
    · cases h

end Sys2Proof.Machine
end

