-- ==== Sys2Proof/Laws/PerInstr.lean ====
section
/-! SUPPORT. The statements about each instruction as syntax, one lemma per constructor. Family `EncodingRow`: the word
that `encode` makes of a command is a word of the command's own row of the opcode map (spec/30_encoding.md R45, R56). -/

namespace Sys2Proof.Laws.EncodingRow

/-- The encoding of `i` is accepted by the row of `i`'s mnemonic. -/
def Statement (i : Instr) : Prop :=
  ∃ r ∈ opcodeTable, r.mnemonic = i.mnemonic ∧ encode i &&& r.mask = r.pattern

/-- What is to be shown of one command: its row, and that its operands leave the reserved parts zero. -/
theorem statement_of_row {i : Instr} (r : OpRow) (mi : Index) (md : Beat) (h : r ∈ opcodeTable) (hn : r.mnemonic = i.mnemonic)
    {op : BitVec 8} {idx : Index} {d : Beat} (he : encode i = commandWord op idx d) (ho : op = opField r.pattern)
    (hmi : idxField r.mask = mi) (hmd : dataField r.mask = md)
    (hi : idx &&& mi = 0) (hd : d &&& md = 0) : Statement i :=
  ⟨r, h, hn, by
    rw [OpRow.accepts_iff_fields h, he, hmi, hmd]
    simp only [opField_commandWord, rsvField_commandWord, idxField_commandWord, dataField_commandWord]
    exact ⟨ho, trivial, hi, hd⟩⟩

theorem rgb_reserved (r g b : Byte) : rgbData r g b &&& 0xFF000000 = 0 :=
  (and_highByte_eq_zero_iff _).2 (fourBytes_byte3 ..)

theorem p24_reserved (p : Packed24) : p24Data p &&& 0xFF000000 = 0 := by
  rw [and_highByte_eq_zero_iff]
  unfold p24Data
  apply BitVec.eq_of_getLsbD_eq
  intro i hi
  simp only [BitVec.getLsbD_append, BitVec.getLsbD_extractLsb', hi, decide_true, Bool.true_and]
  rw [if_neg (by omega)]; simp

theorem level_reserved (l : Level) : levelData l &&& 0xFFFFFFE0 = 0 := by
  rw [and_aboveLevel_eq_zero_iff]
  unfold levelData
  apply BitVec.eq_of_getLsbD_eq
  intro i hi
  simp only [BitVec.getLsbD_append, BitVec.getLsbD_extractLsb', hi, decide_true, Bool.true_and]
  rw [if_neg (by omega)]; simp

theorem force_reserved (f : Bool) : forceData f &&& 0xFFFFFFFE = 0 := by cases f <;> rfl

section
open Sys2Proof

theorem setcol (idx : Index) (r g b : Byte) : Statement (.setcol idx r g b) :=
  statement_of_row setterRows[0] 0 0xFF000000 (by simp [opcodeTable])
    rfl rfl rfl rfl rfl BitVec.and_zero (rgb_reserved r g b)
theorem setcolAll (r g b : Byte) : Statement (.setcolAll r g b) :=
  statement_of_row setterRows[1] 0xFFFF 0xFF000000 (by simp [opcodeTable])
    rfl rfl rfl rfl rfl rfl (rgb_reserved r g b)
theorem setrgb (idx : Index) (p24 : Packed24) : Statement (.setrgb idx p24) :=
  statement_of_row setterRows[2] 0 0xFF000000 (by simp [opcodeTable])
    rfl rfl rfl rfl rfl BitVec.and_zero (p24_reserved p24)
theorem setrgbAll (p24 : Packed24) : Statement (.setrgbAll p24) :=
  statement_of_row setterRows[3] 0xFFFF 0xFF000000 (by simp [opcodeTable])
    rfl rfl rfl rfl rfl rfl (p24_reserved p24)
theorem setill (idx : Index) (level : Level) : Statement (.setill idx level) :=
  statement_of_row setterRows[4] 0 0xFFFFFFE0 (by simp [opcodeTable])
    rfl rfl rfl rfl rfl BitVec.and_zero (level_reserved level)
theorem setillAll (level : Level) : Statement (.setillAll level) :=
  statement_of_row setterRows[5] 0xFFFF 0xFFFFFFE0 (by simp [opcodeTable])
    rfl rfl rfl rfl rfl rfl (level_reserved level)
theorem ledoff (idx : Index) : Statement (.ledoff idx) :=
  statement_of_row setterRows[6] 0 0xFFFFFFFF (by simp [opcodeTable])
    rfl rfl rfl rfl rfl BitVec.and_zero rfl
theorem ledon (idx : Index) : Statement (.ledon idx) :=
  statement_of_row setterRows[7] 0 0xFFFFFFFF (by simp [opcodeTable])
    rfl rfl rfl rfl rfl BitVec.and_zero rfl
theorem serialize : Statement .serialize :=
  statement_of_row outputRows[0] 0xFFFF 0xFFFFFFFF (by simp [opcodeTable])
    rfl rfl rfl rfl rfl rfl rfl
theorem update (force : Bool) : Statement (.update force) :=
  statement_of_row outputRows[1] 0xFFFF 0xFFFFFFFE (by simp [opcodeTable])
    rfl rfl rfl rfl rfl rfl (force_reserved force)
theorem packrgb (r g b : Byte) : Statement (.packrgb r g b) :=
  statement_of_row helperRows[0] 0xFFFF 0xFF000000 (by simp [opcodeTable])
    rfl rfl rfl rfl rfl rfl (rgb_reserved r g b)
theorem packargb (a r g b : Byte) : Statement (.packargb a r g b) :=
  statement_of_row helperRows[1] 0xFFFF 0 (by simp [opcodeTable])
    rfl rfl rfl rfl rfl rfl BitVec.and_zero
theorem unpka (word : Beat) : Statement (.unpka word) :=
  statement_of_row helperRows[2] 0xFFFF 0 (by simp [opcodeTable])
    rfl rfl rfl rfl rfl rfl BitVec.and_zero
theorem unpkr (word : Beat) : Statement (.unpkr word) :=
  statement_of_row helperRows[3] 0xFFFF 0 (by simp [opcodeTable])
    rfl rfl rfl rfl rfl rfl BitVec.and_zero
theorem unpkg (word : Beat) : Statement (.unpkg word) :=
  statement_of_row helperRows[4] 0xFFFF 0 (by simp [opcodeTable])
    rfl rfl rfl rfl rfl rfl BitVec.and_zero
theorem unpkb (word : Beat) : Statement (.unpkb word) :=
  statement_of_row helperRows[5] 0xFFFF 0 (by simp [opcodeTable])
    rfl rfl rfl rfl rfl rfl BitVec.and_zero

end

end Sys2Proof.Laws.EncodingRow
end

