-- ==== Sys2Proof/Tests/Slice0.lean ====
section
/-! SUPPORT. Tests. Every expected value is copied from spec/95_test_vectors.md (the vector's name stands beside each
test) or from the rule cited; the witnesses show that the hypotheses of each statement can be met together. -/

namespace Sys2Proof.Tests

open Sys2Proof Sys2Proof.Machine

/-! ## Helpers -/

/-- "After reset" of the vectors, `N = 4`: the state of R97. -/
def ready4 : State := (State.resetWith 4).construct

/-- The host presents a word and the block takes one step. -/
def after (w : CmdWord) (s : State) : Option State := nextState? (step (s.present w))

/-- Two steps, one word each. -/
def afterTwo (w v : CmdWord) (s : State) : Option State := (after w s).bind (after v)

/-- What the vectors' tables show: the entries as `Word(e)`, and `DIRTY`. -/
def view (s : State) : List (BitVec 32) × Bool := (s.leds.map entryWord, s.dirty)

/-- The events of the trace after the first `k`. -/
def eventsFrom (k : Nat) (s : State) : List Event := s.trace.drop k

/-- The buffers of the transfers after the first `k`. -/
def buffersFrom (k : Nat) (s : State) : List (List Byte) := (s.transfers.drop k).map BusTransfer.buffer

/-- The response values, without the last mark. -/
def beats (es : List Event) : List Beat := es.filterMap fun e => match e with
  | .respond v _ => some v
  | .reset => none
  | .busWrite _ => none

/-- The reset frame `F0(4)`. -/
def f0 : List Byte :=
  [0x00, 0x00, 0x00, 0x00, 0xE0, 0x00, 0x00, 0x00, 0xE0, 0x00, 0x00, 0x00,
   0xE0, 0x00, 0x00, 0x00, 0xE0, 0x00, 0x00, 0x00, 0xFF, 0xFF, 0xFF, 0xFF]

/-! ## Decoding: one word for every constructor (the examples of R57 to R77), and reserved words (family E) -/

theorem test_decode_setcol : decode 0x1000000200FF0000 = .ok (.setcol 2 0xFF 0 0) := by decide
theorem test_decode_setcolAll : decode 0x1100000000FF0000 = .ok (.setcolAll 255 0 0) := by decide
theorem test_decode_setrgb : decode 0x120000010000FF80 = .ok (.setrgb 1 0x00FF80) := by decide
theorem test_decode_setrgbAll : decode 0x13000000000A0B0C = .ok (.setrgbAll 0x0A0B0C) := by decide
theorem test_decode_setill : decode 0x1400000100000005 = .ok (.setill 1 5) := by decide
theorem test_decode_setillAll : decode 0x150000000000001F = .ok (.setillAll 31) := by decide
theorem test_decode_ledoff : decode 0x1600000400000000 = .ok (.ledoff 4) := by decide
theorem test_decode_ledon : decode 0x1700FFFF00000000 = .ok (.ledon 65535) := by decide
theorem test_decode_serialize : decode 0x2000000000000000 = .ok .serialize := by decide
theorem test_decode_update :
    decode 0x2100000000000000 = .ok (.update false) ∧ decode 0x2100000000000001 = .ok (.update true) := by decide
theorem test_decode_packrgb : decode 0x3000000000123456 = .ok (.packrgb 0x12 0x34 0x56) := by decide
theorem test_decode_packargb : decode 0x310000007F123456 = .ok (.packargb 0x7F 0x12 0x34 0x56) := by decide
theorem test_decode_unpka : decode 0x320000007F123456 = .ok (.unpka 0x7F123456) := by decide
theorem test_decode_unpkr : decode 0x330000007F123456 = .ok (.unpkr 0x7F123456) := by decide
theorem test_decode_unpkg : decode 0x340000007F123456 = .ok (.unpkg 0x7F123456) := by decide
theorem test_decode_unpkb : decode 0x350000007F123456 = .ok (.unpkb 0x7F123456) := by decide

/-- E1, E2, E15: unassigned opcodes. -/
theorem test_decode_unassigned :
    decode 0x0000000000000000 = .error .unassignedOpcode ∧
    decode 0xFFFFFFFFFFFFFFFF = .error .unassignedOpcode ∧
    decode 0x2200000000000000 = .error .unassignedOpcode ∧
    decode 0x1800000000000000 = .error .unassignedOpcode ∧
    decode 0x3600000000000000 = .error .unassignedOpcode ∧
    decode 0x0F00000000000000 = .error .unassignedOpcode ∧
    decode 0x4000000000000000 = .error .unassignedOpcode :=
  ⟨by decide, by decide, by decide, by decide, by decide, by decide, by decide⟩

/-- E4, E5, E6, E8, E9: a reserved bit of a setter. -/
theorem test_decode_reserved_setters :
    decode 0x1001000300123456 = .error .reservedBits ∧
    decode 0x1000000301123456 = .error .reservedBits ∧
    decode 0x1100000100FF0000 = .error .reservedBits ∧
    decode 0x1400000000000020 = .error .reservedBits ∧
    decode 0x1500000000000100 = .error .reservedBits :=
  ⟨by decide, by decide, by decide, by decide, by decide⟩

/-- E10, E11, E12, E14, E16, E17: a reserved bit of the other formats. -/
theorem test_decode_reserved_others :
    decode 0x1600000200000001 = .error .reservedBits ∧
    decode 0x2000000000000001 = .error .reservedBits ∧
    decode 0x2001000000000000 = .error .reservedBits ∧
    decode 0x2100000000000002 = .error .reservedBits ∧
    decode 0x3000000001000000 = .error .reservedBits ∧
    decode 0x3100000100000000 = .error .reservedBits :=
  ⟨by decide, by decide, by decide, by decide, by decide, by decide⟩

/-- The table's own numbering (spec/opcode_table.json), and a reserved word. -/
theorem test_decodeTableWord :
    decodeTableWord 64 0x1000000300123456 = some (.setcol 3 0x12 0x34 0x56) ∧ decodeTableWord 64 0 = none := by decide

/-- The step runs the fetched word as the first instruction after reset. -/
theorem test_withFetchWord_runs_first :
    (nextState? (step (State.reset.withFetchWord 64 0x1000000300123456))).map (fun t => (t.leds[3]?, t.dirty)) =
      some (some ⟨0b111, 31, 0x56, 0x34, 0x12⟩, true) := by decide

/-! ## Colour setters -/

/-- A2: the last valid index. -/
theorem test_setcol_last_index :
    (after 0x1000000300123456 ready4).map view = some ([0xE0000000, 0xE0000000, 0xE0000000, 0xFF563412], true) := by decide

/-- A3: the first invalid index, `idx = N`. -/
theorem test_setcol_out_of_range :
    (after 0x1000000400123456 ready4).map view = some ([0xE0000000, 0xE0000000, 0xE0000000, 0xE0000000], true) := by decide

/-- A10. -/
theorem test_setcolAll :
    (after 0x1100000000FF0000 ready4).map view = some ([0xFF0000FF, 0xFF0000FF, 0xFF0000FF, 0xFF0000FF], true) := by decide

/-- A6: red, green, blue of the operand against blue, green, red of the packet. -/
theorem test_setrgb :
    (after 0x120000010000FF80 ready4).map view = some ([0xE0000000, 0xFF80FF00, 0xE0000000, 0xE0000000], true) := by decide

/-- A9: rejected, not clamped. -/
theorem test_setrgb_out_of_range :
    (after 0x120000040000FF80 ready4).map view = some ([0xE0000000, 0xE0000000, 0xE0000000, 0xE0000000], true) := by decide

/-- A12. -/
theorem test_setrgbAll :
    (after 0x13000000000A0B0C ready4).map view = some ([0xFF0C0B0A, 0xFF0C0B0A, 0xFF0C0B0A, 0xFF0C0B0A], true) := by decide

/-- A14: a colour setter discards a previous level. -/
theorem test_setcol_after_setill :
    (afterTwo 0x1400000100000005 0x1000000100102030 ready4).map view =
      some ([0xE0000000, 0xFF302010, 0xE0000000, 0xE0000000], true) := by decide

/-! ## Illumination setters -/

/-- B14: colour first, level second keeps both. -/
theorem test_setill_keeps_colour :
    (afterTwo 0x1000000200AABBCC 0x1400000200000005 ready4).map view =
      some ([0xE0000000, 0xE0000000, 0xE5CCBBAA, 0xE0000000], true) := by decide

/-- B2: maximum level, last index. -/
theorem test_setill_last_index :
    (after 0x140000030000001F ready4).map view = some ([0xE0000000, 0xE0000000, 0xE0000000, 0xFF000000], true) := by decide

/-- B8, without the `UPDATE` between. -/
theorem test_setillAll :
    (afterTwo 0x1100000000090807 0x1500000000000010 ready4).map view =
      some ([0xF0070809, 0xF0070809, 0xF0070809, 0xF0070809], true) := by decide

/-- B9, without the `UPDATE` between. -/
theorem test_ledoff_keeps_colour :
    (afterTwo 0x1000000200010203 0x1600000200000000 ready4).map view =
      some ([0xE0000000, 0xE0000000, 0xE0030201, 0xE0000000], true) := by decide

/-- B10. -/
theorem test_ledon :
    (after 0x1700000200000000 ready4).map view = some ([0xE0000000, 0xE0000000, 0xFF000000, 0xE0000000], true) := by decide

/-- B12: out of range. -/
theorem test_ledon_out_of_range :
    (after 0x1700FFFF00000000 ready4).map view = some ([0xE0000000, 0xE0000000, 0xE0000000, 0xE0000000], true) := by decide

/-! ## SERIALIZE and UPDATE -/

/-- C1: the 24 beats, `DIRTY` kept at 0. -/
theorem test_serialize_after_reset :
    (after 0x2000000000000000 ready4).map (fun t => (beats (eventsFrom 2 t), (eventsFrom 25 t), t.dirty)) =
      some (f0.map (BitVec.setWidth 32), [.respond 0xFF true], false) := by decide

/-- C2: `DIRTY` kept at 1, no transfer. -/
theorem test_serialize_keeps_dirty :
    (afterTwo 0x1000000200FF0000 0x2000000000000000 ready4).map (fun t => ((beats t.trace)[12]?, t.dirty, buffersFrom 1 t)) =
      some (some 0xFF, true, []) := by decide

/-- C3: nothing to send. -/
theorem test_update_clean : (after 0x2100000000000000 ready4).map (fun t => (buffersFrom 1 t, t.dirty)) = some ([], false) := by
  decide

/-- C4: the whole frame once, `DIRTY` cleared whatever the status. -/
theorem test_update_dirty :
    (afterTwo 0x1000000200FF0000 0x2100000000000000 ready4).map (fun t => (buffersFrom 1 t, t.dirty)) =
      some ([[0x00, 0x00, 0x00, 0x00, 0xE0, 0x00, 0x00, 0x00, 0xE0, 0x00, 0x00, 0x00,
        0xFF, 0x00, 0x00, 0xFF, 0xE0, 0x00, 0x00, 0x00, 0xFF, 0xFF, 0xFF, 0xFF]], false) := by decide

/-- C5: force. -/
theorem test_update_forced : (after 0x2100000000000001 ready4).map (fun t => (buffersFrom 1 t, t.dirty)) = some ([f0], false) := by
  decide

/-! ## Helpers (D1 to D6) -/

theorem test_packrgb : (after 0x3000000000123456 ready4).map (eventsFrom 2) = some [.respond 0x00123456 true] := by decide
theorem test_packargb : (after 0x310000007F123456 ready4).map (eventsFrom 2) = some [.respond 0x7F123456 true] := by decide
theorem test_unpka : (after 0x320000007F123456 ready4).map (eventsFrom 2) = some [.respond 0x0000007F true] := by decide
theorem test_unpkr : (after 0x330000007F123456 ready4).map (eventsFrom 2) = some [.respond 0x00000012 true] := by decide
theorem test_unpkg : (after 0x340000007F123456 ready4).map (eventsFrom 2) = some [.respond 0x00000034 true] := by decide
theorem test_unpkb : (after 0x350000007F123456 ready4).map (eventsFrom 2) = some [.respond 0x00000056 true] := by decide

/-! ## Reset and construction (family F, P6) -/

/-- F1: one transfer of `F0(4)` after reset. -/
theorem test_construction :
    (nextState? (step (State.resetWith 4))).map (fun t => (view t, buffersFrom 0 t, t.phase)) =
      some (([0xE0000000, 0xE0000000, 0xE0000000, 0xE0000000], false), [f0], .idle) := by decide

/-- P6: reset discards what the setters wrote. -/
theorem test_reset_discards :
    ((after 0x1100000000010203 ready4).bind fun t => nextState? (step { t with host := [.rst] })).map
        (fun t => (view t, t.phase)) =
      some (([0xE0000000, 0xE0000000, 0xE0000000, 0xE0000000], true), .init) := by decide

/-- R98: the transfer that a reset cuts is recorded as FAIL. -/
theorem test_reset_cuts_transfer :
    (nextState? (step { ready4 with host := [.cmd 0x2100000000000001, .rstInTransfer] })).map
        (fun t => (t.transfers.drop 1).map fun x => (x.buffer, x.status)) = some [(f0, .fail)] := by decide

/-- R84: a reserved word is refused by its name. -/
theorem test_reserved_refused : step (ready4.present 0) = .refused (.unassignedOpcode 0) := by rfl

/-! ## The assembler (R54, R55): every check refuses an ill-formed term -/

theorem test_wellFormed_refuses_index :
    (Asm.setcol 65536 0 0 0).wellFormed = false ∧ (Asm.setrgb 65536 0).wellFormed = false ∧
    (Asm.setill 65536 0).wellFormed = false ∧ (Asm.ledoff 65536).wellFormed = false ∧
    (Asm.ledon 65536).wellFormed = false := by decide

theorem test_wellFormed_refuses_colour :
    (Asm.setcol 0 256 0 0).wellFormed = false ∧ (Asm.setcol 0 0 256 0).wellFormed = false ∧
    (Asm.setcol 0 0 0 256).wellFormed = false ∧ (Asm.setcolAll 256 0 0).wellFormed = false ∧
    (Asm.setcolAll 0 256 0).wellFormed = false ∧ (Asm.setcolAll 0 0 256).wellFormed = false ∧
    (Asm.setrgb 0 0x1000000).wellFormed = false ∧ (Asm.setrgbAll 0x1000000).wellFormed = false := by decide

theorem test_wellFormed_refuses_level_and_force :
    (Asm.setill 0 32).wellFormed = false ∧ (Asm.setillAll 32).wellFormed = false ∧
    (Asm.update 2).wellFormed = false := by decide

theorem test_wellFormed_refuses_helper_operands :
    (Asm.packrgb 256 0 0).wellFormed = false ∧ (Asm.packrgb 0 256 0).wellFormed = false ∧
    (Asm.packrgb 0 0 256).wellFormed = false ∧ (Asm.packargb 256 0 0 0).wellFormed = false ∧
    (Asm.packargb 0 256 0 0).wellFormed = false ∧ (Asm.packargb 0 0 256 0).wellFormed = false ∧
    (Asm.packargb 0 0 0 256).wellFormed = false ∧ (Asm.unpka 0x100000000).wellFormed = false ∧
    (Asm.unpkr 0x100000000).wellFormed = false ∧ (Asm.unpkg 0x100000000).wellFormed = false ∧
    (Asm.unpkb 0x100000000).wellFormed = false := by decide

theorem test_wellFormed_accepts_largest :
    (Asm.setcol 65535 255 255 255).wellFormed = true ∧ (Asm.setill 65535 31).wellFormed = true ∧
    (Asm.update 1).wellFormed = true ∧ (Asm.unpka 0xFFFFFFFF).wellFormed = true := by decide

/-- P2, step 1, with a comment: `SETCOL 4, 1, 2, 3 ; out`. -/
theorem test_readLine_setcol :
    readLine ['S', 'E', 'T', 'C', 'O', 'L', ' ', '4', ',', ' ', '1', ',', ' ', '2', ',', ' ', '3', ' ', ';', ' ', 'o', 'u', 't'] =
      .command (.setcol 4 1 2 3) := by decide

/-- `SETRGB.ALL 0x0A0B0C` (A12), `FLUSH` and an empty line as one program. -/
theorem test_assembleProgram :
    assembleProgram [['S', 'E', 'T', 'R', 'G', 'B', '.', 'A', 'L', 'L', ' ', '0', 'x', '0', 'A', '0', 'B', '0', 'C'],
      [' ', ' '], ['F', 'L', 'U', 'S', 'H']] = some [0x13000000000A0B0C, 0x2100000000000001] := by decide

/-- A numeral that does not fit, an unknown mnemonic and a missing operand are errors. -/
theorem test_readLine_errors :
    readLine ['S', 'E', 'T', 'I', 'L', 'L', '.', 'A', 'L', 'L', ' ', '3', '2'] = .error ∧
    readLine ['N', 'O', 'P'] = .error ∧ readLine ['L', 'E', 'D', 'O', 'N'] = .error ∧
    readLine ['U', 'P', 'D', 'A', 'T', 'E', ' ', '0', 'b', '1'] = .command (.update true) := by decide

/-! ## Wire formats (X8, R25) -/

theorem test_cmdByte :
    cmdByte ⟨0b111, 0, 0, 0, 0⟩ = 0xE0 ∧ cmdByte ⟨0b111, 5, 0, 0, 0⟩ = 0xE5 ∧ cmdByte ⟨0b111, 16, 0, 0, 0⟩ = 0xF0 ∧
    cmdByte ⟨0b111, 31, 0, 0, 0⟩ = 0xFF := by decide

/-- "an LED packet appears on the data line as `1 1 1`, then the 5 brightness bits from bit 4 down to bit 0" (R25). -/
theorem test_wireBits_packet :
    (wireBits (packet ⟨0b111, 0b10010, 0, 0, 1⟩)).take 8 = [true, true, true, true, false, false, true, false] ∧
    (wireBits (packet ⟨0b111, 0b10010, 0, 0, 1⟩))[31]? = some true := by decide

/-! ## Witnesses: a state and operands that meet the hypotheses of each statement, at the boundaries of its clauses -/

/-- EncodeOfDecodeIsIdentity. -/
theorem witness_EncodeOfDecodeIsIdentity : decode 0x1000FFFF00FFFFFF = .ok (.setcol 65535 255 255 255) := by decide

/-- OpcodeMapDecidesTheCommand and OpcodeRowsAreDisjoint: a row accepts a word, the first and the last row of the table. -/
theorem witness_OpcodeMapDecidesTheCommand :
    (∃ row ∈ opcodeTable, row.mnemonic = "SETCOL" ∧ (0x1000FFFF00FFFFFF : CmdWord) &&& row.mask = row.pattern) ∧
    (∃ row ∈ opcodeTable, row.mnemonic = "UNPKB" ∧ (0x35000000FFFFFFFF : CmdWord) &&& row.mask = row.pattern) :=
  ⟨⟨opcodeTable[0], by simp [opcodeTable, setterRows], rfl, by decide⟩,
   ⟨opcodeTable[15], by simp [opcodeTable, setterRows, outputRows, helperRows], rfl, by decide⟩⟩

/-- ReservedWordsAreNamedByDefect: each of its disjuncts alone makes a word reserved (E4, E6, E5, E8, E10, E14). -/
theorem witness_ReservedWordsAreNamedByDefect :
    decode 0x1001000300123456 = .error .reservedBits ∧ decode 0x1100000100FF0000 = .error .reservedBits ∧
    decode 0x1000000301123456 = .error .reservedBits ∧ decode 0x1400000000000020 = .error .reservedBits ∧
    decode 0x1600000200000001 = .error .reservedBits ∧ decode 0x2100000000000002 = .error .reservedBits :=
  ⟨by decide, by decide, by decide, by decide, by decide, by decide⟩

/-- ReservedWordsAreNamedByDefect, its clause about the step: the all-zero word presented to an idle block. -/
theorem witness_ReservedWordsAreNamedByDefect_step :
    decode 0 = .error .unassignedOpcode ∧ (ready4.present 0).phase = .idle ∧ (ready4.present 0).host = .cmd 0 :: [] := by decide

/-- AssemblyIsExactOnFittingNumerals, third clause. -/
theorem witness_AssemblyIsExactOnFittingNumerals :
    Asm.setill 65535 31 ≠ .flush ∧ Asm.setill 65535 31 ≠ .sync ∧
    (Asm.setill 65535 31).assemble = some (.setill 65535 31) := by decide

/-- CmdByteIsMarkerAndBrightness: both hypotheses, brightness 0 and 31. -/
theorem witness_CmdByteIsMarkerAndBrightness :
    (⟨0b111, 0, 1, 2, 3⟩ : LedEntry).marker = 0b111 ∧
    (⟨0b111, 31, 1, 2, 3⟩ : LedEntry).marker = 0b111 ∧ (⟨0b111, 31, 1, 2, 3⟩ : LedEntry).bright = 31 := by decide

/-- FrameIsLaidOutByOffset: first and last entry; what stands at the offsets where the clauses meet. -/
theorem witness_FrameIsLaidOutByOffset :
    ready4.leds[0]? = some ⟨0b111, 0, 0, 0, 0⟩ ∧ ready4.leds[3]? = some ⟨0b111, 0, 0, 0, 0⟩ ∧
    ready4.memRead 3 = some 0x00 ∧ ready4.memRead 4 = some 0xE0 ∧ ready4.memRead 19 = some 0x00 ∧
    ready4.memRead 20 = some 0xFF ∧ ready4.memRead 23 = some 0xFF ∧ ready4.memRead 24 = none := by decide

/-- A state whose markers are set (FrameLengthAndFaithfulness, IlluminationSettersChangeCmdByteOnly). -/
theorem witness_MarkersSet : ready4.MarkersSet := by unfold State.MarkersSet; decide

/-- FrameLengthAndFaithfulness: the last entry. -/
theorem witness_FrameLengthAndFaithfulness : ready4.MarkersSet ∧ 3 < ready4.leds.length :=
  ⟨witness_MarkersSet, by decide⟩

/-- WireBitsAreMostSignificantFirst: first and last byte, first and last bit. -/
theorem witness_WireBitsAreMostSignificantFirst :
    f0[0]? = some 0x00 ∧ f0[23]? = some 0xFF ∧ (wireBits f0)[0]? = some false ∧ (wireBits f0)[191]? = some true := by decide

/-- The index clauses of SetcolWritesOneEntry, SetrgbWritesOneEntry, SetillWritesBrightnessOnly, LedoffClearsBrightness,
LedonSetsFullBrightness and ColourSettersWriteFrameBytes: last valid index, first invalid one, the largest, another entry. -/
theorem witness_index_clauses :
    (3 : Index).toNat < ready4.leds.length ∧ ready4.leds.length ≤ (4 : Index).toNat ∧
    ready4.leds.length ≤ (65535 : Index).toNat ∧ (2 : Nat) ≠ (3 : Index).toNat ∧
    ready4.leds[(3 : Index).toNat]? = some ⟨0b111, 0, 0, 0, 0⟩ := by decide

/-- The clauses over every entry of SetcolAllWritesEveryEntry, SetrgbAllWritesEveryEntry and
SetillAllWritesEveryBrightness, and over the last entry's offsets of ColourSettersWriteFrameBytes. -/
theorem witness_all_clauses :
    0 < ready4.leds.length ∧ 3 < ready4.leds.length ∧ ready4.leds[3]? = some ⟨0b111, 0, 0, 0, 0⟩ ∧
    ¬(4 + 4 * (3 : Index).toNat ≤ 15 ∧ 15 < 8 + 4 * (3 : Index).toNat) ∧
    ¬(4 + 4 * (3 : Index).toNat ≤ 20 ∧ 20 < 8 + 4 * (3 : Index).toNat) := by decide

/-- IlluminationSettersChangeCmdByteOnly: an offset that the indexed clause keeps, and one that the `.ALL` clause keeps. -/
theorem witness_IlluminationSettersChangeCmdByteOnly :
    ready4.MarkersSet ∧ 3 < ready4.leds.length ∧
    ¬((17 : Nat) = 4 + 4 * (3 : Index).toNat ∧ (3 : Index).toNat < ready4.leds.length) ∧
    ∀ i, i < ready4.leds.length → (17 : Nat) ≠ 4 + 4 * i :=
  ⟨witness_MarkersSet, by decide, by decide, fun i _ => by omega⟩

/-- OutOfRangeSetterIsRejectedButDirty: the first invalid index. -/
theorem witness_OutOfRangeSetterIsRejectedButDirty : ready4.leds.length ≤ (4 : Index).toNat := by decide

/-- SettersAreIdempotent. -/
theorem witness_SettersAreIdempotent : isSetter (.setcol 3 1 2 3) = true ∧ isSetter (.ledoff 4) = true := by decide

/-- SerializeRespondsWithTheFrame: the first and the last byte of the frame. -/
theorem witness_SerializeRespondsWithTheFrame :
    (frameOf ready4.leds)[0]? = some 0x00 ∧ (frameOf ready4.leds)[23]? = some 0xFF := by decide

/-- UpdateTransfersIfDirtyOrForced: a state for each line of R68's truth table. -/
theorem witness_UpdateTransfersIfDirtyOrForced :
    ready4.dirty = false ∧ (State.resetWith 4).dirty = true := by decide

/-- FailedTransferIsNotRetriedOrReported: the flag set, and the flag clear with force 1. -/
theorem witness_FailedTransferIsNotRetriedOrReported :
    ((State.resetWith 4).dirty = true ∨ false = true) ∧ (ready4.dirty = true ∨ true = true) := by decide

/-- ResetStateHasTheSpecsValues: the last entry. -/
theorem witness_ResetStateHasTheSpecsValues : 3 < 4 ∧ (State.resetWith 4).leds[3]? = some resetEntry := by decide

/-- ResetDiscardsEverything. -/
theorem witness_ResetDiscardsEverything :
    { ready4 with host := [.rst, .quiet] }.host = .rst :: [.quiet] := rfl

/-- ResetInTransferWithoutTransferIsAReset. -/
theorem witness_ResetInTransferWithoutTransferIsAReset :
    { ready4 with host := [.rstInTransfer, .quiet] }.phase = .idle ∧
    { ready4 with host := [.rstInTransfer, .quiet] }.host = .rstInTransfer :: [.quiet] := ⟨rfl, rfl⟩

/-- ResetDuringTransferRecordsFail: its first case, by the flag and by force, and its second. -/
theorem witness_ResetDuringTransferRecordsFail :
    (∃ s : State, s.phase = .idle ∧ s.dirty = false ∧ s.host = .cmd (encode (.update true)) :: .rstInTransfer :: []) ∧
    (∃ s : State, s.phase = .idle ∧ s.dirty = true ∧ s.host = .cmd (encode (.update false)) :: .rstInTransfer :: []) ∧
    (∃ s : State, s.phase = .init ∧ s.host = .rstInTransfer :: []) :=
  ⟨⟨{ ready4 with host := [.cmd (encode (.update true)), .rstInTransfer] }, rfl, rfl, rfl⟩,
   ⟨{ ready4.setDirty with host := [.cmd (encode (.update false)), .rstInTransfer] }, rfl, rfl, rfl⟩,
   ⟨{ State.resetWith 4 with host := [.rstInTransfer] }, rfl, rfl⟩⟩

/-- StepRunsTheDecodedCommand and BlockIsReadyAgainAfterEveryCommand. -/
theorem witness_StepRunsTheDecodedCommand :
    (ready4.present 0x1000000300123456).phase = .idle ∧
    (ready4.present 0x1000000300123456).host = .cmd (encode (.setcol 3 0x12 0x34 0x56)) :: [] ∧
    decode 0x1000000300123456 = .ok (.setcol 3 0x12 0x34 0x56) := by decide

/-- CommandWaitsForConstruction. -/
theorem witness_CommandWaitsForConstruction :
    ((State.resetWith 4).present 0x2000000000000000).phase = .init ∧
    ((State.resetWith 4).present 0x2000000000000000).host = .cmd 0x2000000000000000 :: [] := by decide

/-- IdleBlockKeepsItsState: both clauses. -/
theorem witness_IdleBlockKeepsItsState :
    (ready4.phase = .idle ∧ ready4.host = []) ∧
    ({ ready4 with host := [.quiet] }.phase = .idle ∧ { ready4 with host := [.quiet] }.host = .quiet :: []) := by decide

/-- OnlyReservedWordsAreRefused: a refused step and an answered one. -/
theorem witness_OnlyReservedWordsAreRefused :
    (∃ r, step (ready4.present 0xFFFFFFFFFFFFFFFF) = .refused r) ∧ ∃ t, step (ready4.present 0x2100000000000000) = .next t :=
  ⟨⟨_, rfl⟩, ⟨_, rfl⟩⟩

/-- InvariantHoldsAtReset: the bounds of `n`. -/
theorem witness_InvariantHoldsAtReset : (1 ≤ 1 ∧ 1 ≤ 65536) ∧ (1 ≤ 65536 ∧ 65536 ≤ 65536) := by decide

/-- InvariantIsKeptByEveryStep: a state that meets it and makes a step. -/
theorem witness_InvariantIsKeptByEveryStep : (State.resetWith 4).Inv ∧ ∃ t, step (State.resetWith 4) = .next t :=
  ⟨{ stripBounded := by unfold State.StripBounded; decide
     markersSet := by unfold State.MarkersSet; decide
     wirebufSized := by unfold State.WirebufSized; decide
     initIsDirty := fun _ => rfl
     cleanIsAttempted := fun h => absurd h (by decide)
     transfersLegal := by intro t ht; simp [State.transfers, State.resetWith, Event.transfer?] at ht }, ⟨_, rfl⟩⟩

/-- StripLengthIsImmutable and TraceOnlyGrows. -/
theorem witness_step_answers : ∃ t, step ready4 = .next t := ⟨_, rfl⟩

/-- LinkIsReachedOnlyByUpdateOrConstruction: a command that is no UPDATE, and steps that add a transfer. -/
theorem witness_LinkIsReachedOnlyByUpdateOrConstruction :
    (∀ force, Instr.serialize ≠ .update force) ∧ (∃ t, exec .serialize ready4 = .next t) ∧
    (∃ t, step (State.resetWith 4) = .next t ∧ t.transfers ≠ (State.resetWith 4).transfers) ∧
    (∃ t, step (ready4.present (encode (.update true))) = .next t ∧
      t.transfers ≠ (ready4.present (encode (.update true))).transfers) :=
  ⟨nofun, ⟨_, rfl⟩,
   ⟨_, rfl, fun h => absurd (congrArg List.length h) (by decide)⟩,
   ⟨_, rfl, fun h => absurd (congrArg List.length h) (by decide)⟩⟩

/-- ReadsHaveNoSideEffects: SERIALIZE and a helper. -/
theorem witness_ReadsHaveNoSideEffects :
    (isSetter .serialize = false ∧ ∀ force, Instr.serialize ≠ .update force) ∧
    (isSetter (.unpka 0) = false ∧ (∀ force, Instr.unpka 0 ≠ .update force) ∧ Instr.unpka 0 ≠ .serialize) :=
  ⟨⟨rfl, nofun⟩, ⟨rfl, nofun, nofun⟩⟩

/-- CommandsTakeEffectInOrder. -/
theorem witness_CommandsTakeEffectInOrder : ready4.phase = .idle ∧ ready4.host = [] := by decide

end Sys2Proof.Tests
end

section
/-! SUPPORT. The strip length and the transfers across a command: no command changes the first (spec/00_scope.md R5), and
only `UPDATE` adds to the second (R3). -/

namespace Sys2Proof.Machine

/-- No command changes `N` (R5). -/
theorem exec_stripLen {i : Instr} {s t : State} (h : exec i s = .next t) : t.stripLen = s.stripLen := by
  obtain hset | ⟨force, -, hupd⟩ | ⟨-, -, wirebuf, vs, hresp, -⟩ := exec_cases i s
  · obtain ⟨leds, hset, hlen, -⟩ := exec_setter hset s
    obtain rfl := Host.Outcome.next.inj (hset.symm.trans h)
    exact hlen
  · obtain rfl := Host.Outcome.next.inj (hupd.symm.trans h)
    split
    · exact s.transmit_stripLen
    · rfl
  · obtain rfl := Host.Outcome.next.inj (hresp.symm.trans h)
    rfl

/-- A command other than `UPDATE` attempts no transfer (R3): a setter keeps the trace, and a response is no transfer. -/
theorem exec_transfers_of_ne_update {i : Instr} {s t : State} (hi : ∀ force, i ≠ .update force)
    (h : exec i s = .next t) : t.transfers = s.transfers := by
  obtain hset | ⟨force, hupd, -⟩ | ⟨-, -, wirebuf, vs, hresp, -⟩ := exec_cases i s
  · obtain ⟨leds, hset, -, -⟩ := exec_setter hset s
    obtain rfl := Host.Outcome.next.inj (hset.symm.trans h)
    rfl
  · exact absurd hupd (hi force)
  · obtain rfl := Host.Outcome.next.inj (hresp.symm.trans h)
    exact s.respond_transfers vs

end Sys2Proof.Machine
end

section
/-! SUPPORT. The words of `UPDATE` are the two that `encode` makes of it (spec/30_encoding.md R38, R45). -/

namespace Sys2Proof

/-- A value whose bits above bit 0 are zero is the `DATA` of format F for its bit 0 (R38). -/
theorem eq_forceData_of_and_eq_zero {d : Beat} (h : d &&& 0xFFFFFFFE = 0) : d = forceData (d.getLsbD 0) := by
  have hd : d = d.extractLsb' 1 31 ++ d.extractLsb' 0 1 := by
    rw [BitVec.extractLsb'_append_extractLsb'_eq_extractLsb' (by rfl)]
    simp
  have hhigh : d.extractLsb' 1 31 = 0 := (and_aboveForce_eq_zero_iff d).1 h
  have hlow : d.extractLsb' 0 1 = BitVec.ofBool (d.getLsbD 0) := by
    apply BitVec.eq_of_getLsbD_eq
    intro i hi
    obtain rfl : i = 0 := by omega
    simp
  calc d = d.extractLsb' 1 31 ++ d.extractLsb' 0 1 := hd
    _ = forceData (d.getLsbD 0) := by rw [hhigh, hlow]; rfl

/-- A word that the row of `UPDATE` accepts is `encode` of the `UPDATE` the row makes of it. -/
theorem encode_update_of_accepts {w : CmdWord} (h : w &&& outputRows[1].mask = outputRows[1].pattern) :
    encode (.update (forceField w)) = w := by
  obtain ⟨hop, hrsv, hidx, hdata⟩ := (OpRow.accepts_iff_fields (by simp [opcodeTable]) w).1 h
  have hidx : idxField w = 0 := (index_and_allBits _).symm.trans hidx
  have hforce : forceField w = (dataField w).getLsbD 0 := by simp [forceField, dataField]
  have hdata : dataField w = forceData (forceField w) := hforce ▸ eq_forceData_of_and_eq_zero hdata
  rw [word_ext_iff]
  simp only [encode, opField_commandWord, rsvField_commandWord, idxField_commandWord, dataField_commandWord]
  exact ⟨hop.symm, hrsv.symm, hidx.symm, hdata.symm⟩

/-- A word that decodes to an `UPDATE` is the encoding of that `UPDATE`. -/
theorem encode_update_of_decode {w : CmdWord} {force : Bool} (h : decode w = .ok (.update force)) :
    encode (.update force) = w := by
  obtain ⟨r, hr, haccepts, hdec⟩ | ⟨-, hdec⟩ := decode_cases w
  · have hbuild : r.build w = .update force := Except.ok.inj (hdec.symm.trans h)
    have hname : r.mnemonic = outputRows[1].mnemonic := by
      rw [← OpRow.build_mnemonic hr w, hbuild]; rfl
    obtain rfl : r = outputRows[1] := OpRow.eq_of_mnemonic hr (by simp [opcodeTable]) hname
    rw [← hbuild]
    exact encode_update_of_accepts haccepts
  · exact absurd (hdec.symm.trans h) nofun

end Sys2Proof
end

section
/-! The statements of the family spec/00_scope.md. -/

namespace Sys2Proof.Machine

/-- Settles O49: each of the four things a step can do keeps `N`; an accepted command does by `exec_stripLen`. -/
theorem stripLengthIsImmutable : Obligations.StripLengthIsImmutable := by
  intro s t h
  obtain rfl | ⟨-, rfl⟩ | ⟨-, rfl⟩ | ⟨-, w, rest, i, -, -, hexec⟩ := step_cases h
  · simp
  · simp
  · simp
  · exact (exec_stripLen hexec).trans s.popHost_stripLen

/-- Settles O51: the link's bytes are those of the transfers, which no command but `UPDATE` changes; of the four things a
step can do, a reset and an idle moment add no transfer either, construction runs in INIT, and an accepted word that
adds one decodes to an `UPDATE` and so is its encoding. -/
theorem linkIsReachedOnlyByUpdateOrConstruction : Obligations.LinkIsReachedOnlyByUpdateOrConstruction := by
  constructor
  · intro i s t hi h
    have htransfers := exec_transfers_of_ne_update hi h
    exact ⟨htransfers, congrArg (List.flatMap BusTransfer.carried) htransfers⟩
  · intro s t h hne
    obtain rfl | ⟨hinit, -⟩ | ⟨-, rfl⟩ | ⟨-, w, rest, i, hhost, hdec, hexec⟩ := step_cases h
    · exact absurd (by simp) hne
    · exact .inl hinit
    · exact absurd s.popHost_transfers hne
    · right
      by_cases hi : ∃ force, i = .update force
      · obtain ⟨force, rfl⟩ := hi
        exact ⟨force, rest, by rw [hhost, encode_update_of_decode hdec]⟩
      · have hkeeps : t.transfers = s.popHost.transfers :=
          exec_transfers_of_ne_update (fun force e => hi ⟨force, e⟩) hexec
        exact absurd (hkeeps.trans s.popHost_transfers) hne

end Sys2Proof.Machine
end

section
/-! SUPPORT. Sequences of commands (spec/20_memory.md R31) and what R14 and R68 make of them, one command at a time; the
first step of a block in INIT (R96); the fields of the reset state (R20). -/

namespace Sys2Proof.Machine

/-! ## Sequences of commands -/

/-- A sequence applies its first command, then the rest (R31). -/
theorem execSeq_cons_of_next {i : Instr} {s t : State} (h : exec i s = .next t) (is : List Instr) :
    execSeq (i :: is) s = execSeq is t := by
  rw [execSeq, h]

/-- `UPDATE` leaves the flag clear (R14, R68). -/
@[simp] theorem dirtyAfter_update_cons (d force : Bool) (is : List Instr) :
    dirtyAfter d (.update force :: is) = dirtyAfter false is := rfl

/-- Any other command sets the flag if it is a setter and keeps it otherwise (R14). -/
theorem dirtyAfter_cons_of_ne_update {i : Instr} (hi : ∀ force, i ≠ .update force) (d : Bool) (is : List Instr) :
    dirtyAfter d (i :: is) = dirtyAfter (isSetter i || d) is :=
  dirtyAfter.eq_3 d i is hi

/-- `UPDATE` transfers if the flag is set or its force is 1 (R68). -/
@[simp] theorem transfersOf_update_cons (d force : Bool) (is : List Instr) :
    transfersOf d (.update force :: is) = (if d || force then 1 else 0) + transfersOf false is := rfl

/-- Any other command transfers nothing (R3). -/
theorem transfersOf_cons_of_ne_update {i : Instr} (hi : ∀ force, i ≠ .update force) (d : Bool) (is : List Instr) :
    transfersOf d (i :: is) = transfersOf (isSetter i || d) is :=
  transfersOf.eq_3 d i is hi

/-- A command other than `UPDATE` sets the flag if it is a setter, keeps it otherwise, and transfers nothing (R14, R3). -/
theorem exec_flag_of_ne_update {i : Instr} (hi : ∀ force, i ≠ .update force) (s : State) :
    ∃ t, exec i s = .next t ∧ t.dirty = (isSetter i || s.dirty) ∧ t.transfers = s.transfers := by
  obtain hset | ⟨force, hupd, -⟩ | ⟨hset, -, wirebuf, vs, hresp, -⟩ := exec_cases i s
  · obtain ⟨leds, hexec, -, -⟩ := exec_setter hset s
    exact ⟨_, hexec, by simp [hset], exec_transfers_of_ne_update hi hexec⟩
  · exact absurd hupd (hi force)
  · exact ⟨_, hresp, by simp [hset], exec_transfers_of_ne_update hi hresp⟩

/-- `UPDATE` leaves the flag clear, and attempts one transfer if the flag was set or force is 1 (R68). -/
theorem exec_update_flag (force : Bool) (s : State) :
    ∃ t, exec (.update force) s = .next t ∧ t.dirty = false ∧
      t.transfers.length = s.transfers.length + if s.dirty || force then 1 else 0 := by
  refine ⟨_, rfl, ?_⟩
  by_cases h : s.mustTransmit force = true
  · have hflag : (s.dirty || force) = true := h
    simp [h, hflag]
  · obtain ⟨hclean, hforce⟩ : s.dirty = false ∧ force = false := by simpa [State.mustTransmit] using h
    simp [State.mustTransmit, hclean, hforce]

/-! ## Reset and construction -/

/-- In INIT, unless a reset is asserted, the construction sequence runs (R96, R88). -/
theorem step_of_init {s : State} (hphase : s.phase = .init) (hhost : ∀ rest, s.host ≠ .rst :: rest) :
    step s = .next s.construct.dropQuiet := by
  have haction : s.nextAction = .construct := by
    unfold State.nextAction
    split <;> simp_all
  rw [step, haction]

section
variable (n : Nat)

@[simp] theorem State.resetWith_leds : (State.resetWith n).leds = List.replicate n resetEntry := rfl
@[simp] theorem State.resetWith_dirty : (State.resetWith n).dirty = true := rfl
@[simp] theorem State.resetWith_phase : (State.resetWith n).phase = .init := rfl
@[simp] theorem State.resetWith_host : (State.resetWith n).host = [] := rfl

/-- From reset, with nothing presented, the first step is the construction sequence (R96). -/
theorem step_resetWith : step (State.resetWith n) = .next (State.resetWith n).construct.dropQuiet :=
  step_of_init (State.resetWith_phase n) (by simp)

end

end Sys2Proof.Machine
end

section
/-! The statements of the family spec/10_state.md. -/

namespace Sys2Proof.Machine

/-- Settles O53, by induction on the commands: an `UPDATE` leaves the flag clear and adds a transfer if it finds the flag
set or has force 1 (`exec_update_flag`), any other command adds none (`exec_flag_of_ne_update`). -/
theorem dirtyAndTransfersFollowTheCommands : Obligations.DirtyAndTransfersFollowTheCommands := by
  intro is
  induction is with
  | nil => exact fun s => ⟨s, rfl, rfl, rfl⟩
  | cons i is ih =>
    intro s
    by_cases hi : ∃ force, i = .update force
    · obtain ⟨force, rfl⟩ := hi
      obtain ⟨u, hexec, hdirty, htransfers⟩ := exec_update_flag force s
      obtain ⟨t, hseq, hdirty', htransfers'⟩ := ih u
      refine ⟨t, (execSeq_cons_of_next hexec is).trans hseq, ?_, ?_⟩
      · rw [hdirty', hdirty, dirtyAfter_update_cons]
      · rw [htransfers', htransfers, hdirty, transfersOf_update_cons, Nat.add_assoc]
    · have hi : ∀ force, i ≠ .update force := fun force e => hi ⟨force, e⟩
      obtain ⟨u, hexec, hdirty, htransfers⟩ := exec_flag_of_ne_update hi s
      obtain ⟨t, hseq, hdirty', htransfers'⟩ := ih u
      refine ⟨t, (execSeq_cons_of_next hexec is).trans hseq, ?_, ?_⟩
      · rw [hdirty', hdirty, dirtyAfter_cons_of_ne_update hi]
      · rw [htransfers', htransfers, hdirty, transfersOf_cons_of_ne_update hi]

/-- Settles O38: the reset values are those of `State.resetWith`, and its first step is the construction sequence
(`step_resetWith`), whose fields are read off. -/
theorem resetStateHasTheSpecsValues : Obligations.ResetStateHasTheSpecsValues := by
  refine ⟨fun n => ⟨by simp, fun i hi => ?_, State.resetWith_dirty n, State.resetWith_phase n, _, step_resetWith n,
    ?_, ?_, ?_, ?_⟩, by decide, Config.stripLength, by decide, by decide, rfl⟩
  · rw [State.resetWith_leds, List.getElem?_replicate_of_lt hi]; rfl
  · rw [State.dropQuiet_leds, State.construct_leds]
  · rw [State.dropQuiet_dirty, State.construct_dirty]
  · rw [State.dropQuiet_wirebuf, State.construct_wirebuf]
  · rw [State.dropQuiet_phase, State.construct_phase]

end Sys2Proof.Machine
end

section
/-! SUPPORT. The decoder on encoded words (spec/30_encoding.md R56): the operand fields of a command word, and each row
reads back the operands that `encode` wrote. -/

namespace Sys2Proof

/-! ## The operand fields of a command word (R37, R39) -/

section
variable (op : BitVec 8) (idx : Index)

theorem aField_commandWord (d : Beat) : aField (commandWord op idx d) = d.extractLsb' 24 8 :=
  commandWord_extract op idx d 24 8 (by omega)
theorem rField_commandWord (d : Beat) : rField (commandWord op idx d) = d.extractLsb' 16 8 :=
  commandWord_extract op idx d 16 8 (by omega)
theorem gField_commandWord (d : Beat) : gField (commandWord op idx d) = d.extractLsb' 8 8 :=
  commandWord_extract op idx d 8 8 (by omega)
theorem bField_commandWord (d : Beat) : bField (commandWord op idx d) = d.extractLsb' 0 8 :=
  commandWord_extract op idx d 0 8 (by omega)

@[simp] theorem rField_rgb (r g b : Byte) : rField (commandWord op idx (rgbData r g b)) = r :=
  (rField_commandWord op idx _).trans (fourBytes_byte2 0 r g b)
@[simp] theorem gField_rgb (r g b : Byte) : gField (commandWord op idx (rgbData r g b)) = g :=
  (gField_commandWord op idx _).trans (fourBytes_byte1 0 r g b)
@[simp] theorem bField_rgb (r g b : Byte) : bField (commandWord op idx (rgbData r g b)) = b :=
  (bField_commandWord op idx _).trans (fourBytes_byte0 0 r g b)

@[simp] theorem aField_argb (a r g b : Byte) : aField (commandWord op idx (argbData a r g b)) = a :=
  (aField_commandWord op idx _).trans (fourBytes_byte3 a r g b)
@[simp] theorem rField_argb (a r g b : Byte) : rField (commandWord op idx (argbData a r g b)) = r :=
  (rField_commandWord op idx _).trans (fourBytes_byte2 a r g b)
@[simp] theorem gField_argb (a r g b : Byte) : gField (commandWord op idx (argbData a r g b)) = g :=
  (gField_commandWord op idx _).trans (fourBytes_byte1 a r g b)
@[simp] theorem bField_argb (a r g b : Byte) : bField (commandWord op idx (argbData a r g b)) = b :=
  (bField_commandWord op idx _).trans (fourBytes_byte0 a r g b)

@[simp] theorem p24Field_p24 (p : Packed24) : p24Field (commandWord op idx (p24Data p)) = p :=
  (commandWord_extract op idx _ 0 24 (by omega)).trans BitVec.extractLsb'_append_eq_right
@[simp] theorem levelField_level (l : Level) : levelField (commandWord op idx (levelData l)) = l :=
  (commandWord_extract op idx _ 0 5 (by omega)).trans BitVec.extractLsb'_append_eq_right

@[simp] theorem forceField_force (f : Bool) : forceField (commandWord op idx (forceData f)) = f := by
  have hbit (w : CmdWord) : forceField w = (dataField w).getLsbD 0 := by simp [forceField, dataField]
  rw [hbit, dataField_commandWord]
  cases f <;> rfl

end

/-! ## Decoding what was encoded (R56) -/

/-- The row of a command's name decodes the command's encoding, whatever its operands (`EncodingRow`); it remains that the
row reads the operands back. -/
theorem decode_encode_of_build {i : Instr} (r : OpRow) (hr : r ∈ opcodeTable) (hname : r.mnemonic = i.mnemonic)
    (hrow : Laws.EncodingRow.Statement i) (hbuild : r.build (encode i) = i) : decode (encode i) = .ok i := by
  obtain ⟨r', hr', hname', haccepts⟩ := hrow
  obtain rfl : r' = r := OpRow.eq_of_mnemonic hr' hr (hname'.trans hname.symm)
  rw [decode_of_accepts hr' haccepts, hbuild]

open Laws in
/-- `Decode(Encode(c)) = c` (R56). -/
theorem decode_encode (i : Instr) : decode (encode i) = .ok i := by
  cases i with
  | setcol idx r g b =>
    exact decode_encode_of_build setterRows[0] (by simp [opcodeTable]) rfl (EncodingRow.setcol idx r g b)
      (by simp [setterRows, encode])
  | setcolAll r g b =>
    exact decode_encode_of_build setterRows[1] (by simp [opcodeTable]) rfl (EncodingRow.setcolAll r g b)
      (by simp [setterRows, encode])
  | setrgb idx p =>
    exact decode_encode_of_build setterRows[2] (by simp [opcodeTable]) rfl (EncodingRow.setrgb idx p)
      (by simp [setterRows, encode])
  | setrgbAll p =>
    exact decode_encode_of_build setterRows[3] (by simp [opcodeTable]) rfl (EncodingRow.setrgbAll p)
      (by simp [setterRows, encode])
  | setill idx l =>
    exact decode_encode_of_build setterRows[4] (by simp [opcodeTable]) rfl (EncodingRow.setill idx l)
      (by simp [setterRows, encode])
  | setillAll l =>
    exact decode_encode_of_build setterRows[5] (by simp [opcodeTable]) rfl (EncodingRow.setillAll l)
      (by simp [setterRows, encode])
  | ledoff idx =>
    exact decode_encode_of_build setterRows[6] (by simp [opcodeTable]) rfl (EncodingRow.ledoff idx)
      (by simp [setterRows, encode])
  | ledon idx =>
    exact decode_encode_of_build setterRows[7] (by simp [opcodeTable]) rfl (EncodingRow.ledon idx)
      (by simp [setterRows, encode])
  | serialize =>
    exact decode_encode_of_build outputRows[0] (by simp [opcodeTable]) rfl EncodingRow.serialize rfl
  | update f =>
    exact decode_encode_of_build outputRows[1] (by simp [opcodeTable]) rfl (EncodingRow.update f)
      (by simp [outputRows, encode])
  | packrgb r g b =>
    exact decode_encode_of_build helperRows[0] (by simp [opcodeTable]) rfl (EncodingRow.packrgb r g b)
      (by simp [helperRows, encode])
  | packargb a r g b =>
    exact decode_encode_of_build helperRows[1] (by simp [opcodeTable]) rfl (EncodingRow.packargb a r g b)
      (by simp [helperRows, encode])
  | unpka w =>
    exact decode_encode_of_build helperRows[2] (by simp [opcodeTable]) rfl (EncodingRow.unpka w)
      (by simp [helperRows, encode])
  | unpkr w =>
    exact decode_encode_of_build helperRows[3] (by simp [opcodeTable]) rfl (EncodingRow.unpkr w)
      (by simp [helperRows, encode])
  | unpkg w =>
    exact decode_encode_of_build helperRows[4] (by simp [opcodeTable]) rfl (EncodingRow.unpkg w)
      (by simp [helperRows, encode])
  | unpkb w =>
    exact decode_encode_of_build helperRows[5] (by simp [opcodeTable]) rfl (EncodingRow.unpkb w)
      (by simp [helperRows, encode])

end Sys2Proof
end

section
/-! SUPPORT. A command as a function of the state (spec/20_memory.md R27, R31): what a setter makes of the entries, that
every command answers and keeps `PHASE` and the host's inputs, and that no command reads those inputs beyond whether a reset
cuts its transfer. -/

namespace Sys2Proof.Machine

/-! ## Setters -/

/-- In every state, `i` replaces the entries by `g` of them, sets `DIRTY`, and does nothing else. -/
def SetsEntries (i : Instr) (g : List LedEntry → List LedEntry) : Prop :=
  ∀ s, exec i s = .next { s with leds := g s.leds, dirty := true }

/-- A write through one index, by an idempotent `f`. -/
theorem setsEntries_of_modify {i : Instr} (idx : Index) (f : LedEntry → LedEntry) (hf : f ∘ f = f)
    (h : ∀ s, exec i s = .next (s.modifyLed idx f).setDirty) : ∃ g, SetsEntries i g ∧ g ∘ g = g := by
  refine ⟨fun l => l.modify idx.toNat f, fun s => ?_, funext fun l => ?_⟩
  · rw [h, State.modifyLed_eq]; rfl
  · rw [Function.comp_apply, List.modify_modify_eq, hf]

/-- A write of every entry, by an idempotent `f`. -/
theorem setsEntries_of_map {i : Instr} (f : LedEntry → LedEntry) (hf : f ∘ f = f)
    (h : ∀ s, exec i s = .next (s.modifyAll f).setDirty) : ∃ g, SetsEntries i g ∧ g ∘ g = g := by
  refine ⟨List.map f, h, ?_⟩
  rw [List.map_comp_map, hf]

/-- Every setter is a write by an idempotent function: a colour setter writes a constant, an illumination setter a constant
brightness (R27). -/
theorem exists_setsEntries {i : Instr} (hi : isSetter i = true) : ∃ g, SetsEntries i g ∧ g ∘ g = g := by
  cases i with
  | setcol idx r g b => exact setsEntries_of_modify idx (fun _ => fullOn r g b) rfl fun _ => rfl
  | setcolAll r g b => exact setsEntries_of_map (fun _ => fullOn r g b) rfl fun _ => rfl
  | setrgb idx p => exact setsEntries_of_modify idx (fun _ => fullOnPacked p) rfl fun _ => rfl
  | setrgbAll p => exact setsEntries_of_map (fun _ => fullOnPacked p) rfl fun _ => rfl
  | setill idx l => exact setsEntries_of_modify idx (fun e => e.withBright l) rfl fun _ => rfl
  | setillAll l => exact setsEntries_of_map (fun e => e.withBright l) rfl fun _ => rfl
  | ledoff idx => exact setsEntries_of_modify idx (fun e => e.withBright 0) rfl fun _ => rfl
  | ledon idx => exact setsEntries_of_modify idx (fun e => e.withBright brightMax) rfl fun _ => rfl
  | serialize | update _ | packrgb _ _ _ | packargb _ _ _ _ | unpka _ | unpkr _ | unpkg _ | unpkb _ => cases hi

/-! ## What every command keeps -/

/-- Every command answers, and keeps `PHASE` and the host's inputs (R81, R85). -/
theorem exec_answers (i : Instr) (s : State) : ∃ t, exec i s = .next t ∧ t.phase = s.phase ∧ t.host = s.host := by
  obtain hset | ⟨force, -, hupd⟩ | ⟨-, -, wirebuf, vs, hresp, -⟩ := exec_cases i s
  · obtain ⟨leds, hexec, -, -⟩ := exec_setter hset s
    exact ⟨_, hexec, rfl, rfl⟩
  · refine ⟨_, hupd, ?_, ?_⟩ <;> split <;> rfl
  · exact ⟨_, hresp, rfl, rfl⟩

/-! ## What a command reads of the host's inputs -/

section
variable {s : State} {host : List HostInput}

/-- A transfer depends on the inputs to come only in whether a reset cuts it (R98). -/
theorem State.transmit_withHost (hcut : { s with host := host }.cutByReset = s.cutByReset) :
    { s with host := host }.transmit = { s.transmit with host := host } := by
  have hstatus : { s with host := host }.latchFrame.nextStatus = s.latchFrame.nextStatus := by
    have hlatched : { s with host := host }.latchFrame.cutByReset = s.latchFrame.cutByReset := hcut
    rw [State.nextStatus, State.nextStatus, hlatched]; rfl
  simp only [State.transmit, State.busWrite, State.nextTransfer, hstatus]
  rfl

/-- With other inputs to come, which cut a transfer or do not as before, a command does the same and leaves those (R31). -/
theorem exec_withHost {i : Instr} {t : State} (hcut : { s with host := host }.cutByReset = s.cutByReset)
    (h : exec i s = .next t) : exec i { s with host := host } = .next { t with host := host } := by
  by_cases hi : isSetter i = true
  · obtain ⟨g, hg, -⟩ := exists_setsEntries hi
    obtain rfl := Host.Outcome.next.inj ((hg s).symm.trans h)
    exact hg _
  · cases i with
    | setcol _ _ _ _ | setcolAll _ _ _ | setrgb _ _ | setrgbAll _ | setill _ _ | setillAll _ | ledoff _ | ledon _ =>
      exact absurd rfl hi
    | update force =>
      obtain rfl := Host.Outcome.next.inj h
      calc exec (.update force) { s with host := host }
          = .next (if s.mustTransmit force then { s with host := host }.transmit else { s with host := host }) := rfl
        _ = .next { (if s.mustTransmit force then s.transmit else s) with host := host } := by
          rw [State.transmit_withHost hcut]; split <;> rfl
    | serialize | packrgb _ _ _ | packargb _ _ _ _ | unpka _ | unpkr _ | unpkg _ | unpkb _ =>
      obtain rfl := Host.Outcome.next.inj h
      rfl

end

/-! ## Issued commands -/

/-- In IDLE a presented word that decodes is accepted, and its command runs (R43, R31). -/
theorem step_of_accept {s : State} {w : CmdWord} {rest : List HostInput} {i : Instr} (hphase : s.phase = .idle)
    (hhost : s.host = .cmd w :: rest) (hdec : decode w = .ok i) : step s = exec i s.popHost := by
  have haction : s.nextAction = .accept w := by rw [State.nextAction, hphase, hhost]
  rw [step, haction]
  simp only [hdec]

/-- Issued commands are no reset: they cut no transfer (R98). -/
theorem State.issue_cutByReset (s : State) (is : List Instr) : { s with host := issue is }.cutByReset = false := by
  cases is <;> rfl

/-- One step runs the first of the issued commands and leaves the rest issued (R31). -/
theorem step_issue_cons {i : Instr} {is : List Instr} {s t : State} (hphase : s.phase = .idle) (hhost : s.host = [])
    (h : exec i s = .next t) :
    step { s with host := issue (i :: is) } = .next { t with host := issue is } := by
  have hcut : s.cutByReset = false := by rw [State.cutByReset, hhost]
  calc step { s with host := issue (i :: is) }
      = exec i { s with host := issue is } := step_of_accept hphase rfl (decode_encode i)
    _ = .next { t with host := issue is } := exec_withHost ((s.issue_cutByReset is).trans hcut.symm) h

end Sys2Proof.Machine
end

section
/-! The statements of the family spec/20_memory.md. -/

namespace Sys2Proof.Machine

/-- Settles O25: a setter replaces the entries by an idempotent function of them (`exists_setsEntries`), and sets `DIRTY`
both times. -/
theorem settersAreIdempotent : Obligations.SettersAreIdempotent := by
  intro i s hi
  obtain ⟨g, hg, hidem⟩ := exists_setsEntries hi
  exact ⟨_, _, hg s, hg _, congrFun hidem s.leds, rfl⟩

/-- Settles O52: a command that is neither a setter nor an `UPDATE` is a response, which writes the trace and, in
SERIALIZE alone, `WIREBUF` (`exec_cases`). -/
theorem readsHaveNoSideEffects : Obligations.ReadsHaveNoSideEffects := by
  intro i s hset hupd
  obtain hset' | ⟨force, hupd', -⟩ | ⟨-, -, wirebuf, vs, hexec, hwirebuf⟩ := exec_cases i s
  · exact absurd (hset'.symm.trans hset) nofun
  · exact absurd hupd' (hupd force)
  · exact ⟨_, hexec, rfl, rfl, rfl, rfl, rfl, fun hser => hwirebuf.resolve_right fun h => hser h.1⟩

/-- Settles O54, by induction on the commands: each step runs the first issued command as its rule says, on the state
without the inputs to come, and leaves the rest issued (`step_issue_cons`). -/
theorem commandsTakeEffectInOrder : Obligations.CommandsTakeEffectInOrder := by
  intro is
  induction is with
  | nil =>
    intro s _ hhost
    refine ⟨s, rfl, ?_⟩
    have hs : { s with host := issue [] } = s := by rw [issue, List.map_nil, ← hhost]
    rw [hs]; rfl
  | cons i is ih =>
    intro s hphase hhost
    obtain ⟨u, hexec, hphase', hhost'⟩ := exec_answers i s
    obtain ⟨t, hseq, hrun⟩ := ih u (hphase'.trans hphase) (hhost'.trans hhost)
    refine ⟨t, (execSeq_cons_of_next hexec is).trans hseq, ?_⟩
    exact (run_next (step_issue_cons hphase hhost hexec)).trans hrun

end Sys2Proof.Machine
end

section
/-! SUPPORT. Encoding what was decoded (spec/30_encoding.md R56): a word that a row accepts is the encoding of the command
the row makes of it, because the row's format leaves nothing but the operand fields free (R38). -/

namespace Sys2Proof

/-! ## `DATA` from its operand fields (R38, R39) -/

section
variable (w : CmdWord)

/-- Format W with four channels: all of `DATA` is operand. -/
theorem argbData_fields : argbData (aField w) (rField w) (gField w) (bField w) = dataField w := by
  rw [beat_eq_bytes (dataField w)]
  simp only [dataField_extract w 24 8 (by omega), dataField_extract w 16 8 (by omega),
    dataField_extract w 8 8 (by omega), dataField_extract w 0 8 (by omega)]
  rfl

variable {w}

/-- Formats IC and AC with three channels. -/
theorem rgbData_fields (h : dataField w &&& 0xFF000000 = 0) :
    rgbData (rField w) (gField w) (bField w) = dataField w := by
  have ha : aField w = 0 := (dataField_extract w 24 8 (by omega)).symm.trans ((and_highByte_eq_zero_iff _).1 h)
  rw [← argbData_fields w, ha]; rfl

/-- Formats IC and AC with a packed24 operand. -/
theorem p24Data_field (h : dataField w &&& 0xFF000000 = 0) : p24Data (p24Field w) = dataField w := by
  have hd : (dataField w).extractLsb' 24 8 ++ (dataField w).extractLsb' 0 24 = dataField w := by
    rw [BitVec.extractLsb'_append_extractLsb'_eq_extractLsb' (by rfl)]
    simp
  rw [(and_highByte_eq_zero_iff _).1 h, dataField_extract w 0 24 (by omega)] at hd
  exact hd

/-- Formats IL and AL. -/
theorem levelData_field (h : dataField w &&& 0xFFFFFFE0 = 0) : levelData (levelField w) = dataField w := by
  have hd : (dataField w).extractLsb' 5 27 ++ (dataField w).extractLsb' 0 5 = dataField w := by
    rw [BitVec.extractLsb'_append_extractLsb'_eq_extractLsb' (by rfl)]
    simp
  rw [(and_aboveLevel_eq_zero_iff _).1 h, dataField_extract w 0 5 (by omega)] at hd
  exact hd

/-- Format F. -/
theorem forceData_field (h : dataField w &&& 0xFFFFFFFE = 0) : forceData (forceField w) = dataField w := by
  have hforce : forceField w = (dataField w).getLsbD 0 := by simp [forceField, dataField]
  rw [hforce, ← eq_forceData_of_and_eq_zero h]

/-- Formats IX and Z: no bit of `DATA` is free. -/
theorem zero_eq_dataField (h : dataField w &&& 0xFFFFFFFF = 0) : 0 = dataField w :=
  h.symm.trans (and_allBits _)

/-- Formats without an index: no bit of `IDX` is free. -/
theorem zero_eq_idxField (h : idxField w &&& 0xFFFF = 0) : 0 = idxField w :=
  h.symm.trans (index_and_allBits _)

end

/-! ## Encoding what was decoded (R56) -/

/-- The row's command has the row's opcode, and its operands fill whatever the row's format leaves free. -/
def OpRow.Reencodes (r : OpRow) : Prop :=
  ∀ w : CmdWord, idxField w &&& idxField r.mask = 0 → dataField w &&& dataField r.mask = 0 →
    encode (r.build w) = commandWord (opField r.pattern) (idxField w) (dataField w)

/-- A row makes its command of all the bits its format leaves free (R38, R39, R45). -/
theorem OpRow.reencodes : ∀ r ∈ opcodeTable, r.Reencodes := by
  simp only [opcodeTable, setterRows, outputRows, helperRows, List.cons_append, List.nil_append, List.forall_mem_cons]
  refine ⟨?setcol, ?setcolAll, ?setrgb, ?setrgbAll, ?setill, ?setillAll, ?ledoff, ?ledon, ?serialize, ?update,
    ?packrgb, ?packargb, ?unpka, ?unpkr, ?unpkg, ?unpkb, by simp⟩
  case setcol => exact fun w _ hd => congrArg (commandWord 0x10 _) (rgbData_fields hd)
  case setcolAll => exact fun w hi hd => congrArg₂ (commandWord 0x11) (zero_eq_idxField hi) (rgbData_fields hd)
  case setrgb => exact fun w _ hd => congrArg (commandWord 0x12 _) (p24Data_field hd)
  case setrgbAll => exact fun w hi hd => congrArg₂ (commandWord 0x13) (zero_eq_idxField hi) (p24Data_field hd)
  case setill => exact fun w _ hd => congrArg (commandWord 0x14 _) (levelData_field hd)
  case setillAll => exact fun w hi hd => congrArg₂ (commandWord 0x15) (zero_eq_idxField hi) (levelData_field hd)
  case ledoff => exact fun w _ hd => congrArg (commandWord 0x16 _) (zero_eq_dataField hd)
  case ledon => exact fun w _ hd => congrArg (commandWord 0x17 _) (zero_eq_dataField hd)
  case serialize => exact fun w hi hd => congrArg₂ (commandWord 0x20) (zero_eq_idxField hi) (zero_eq_dataField hd)
  case update => exact fun w hi hd => congrArg₂ (commandWord 0x21) (zero_eq_idxField hi) (forceData_field hd)
  case packrgb => exact fun w hi hd => congrArg₂ (commandWord 0x30) (zero_eq_idxField hi) (rgbData_fields hd)
  case packargb => exact fun w hi _ => congrArg₂ (commandWord 0x31) (zero_eq_idxField hi) (argbData_fields w)
  case unpka => exact fun w hi _ => congrArg (commandWord 0x32 · _) (zero_eq_idxField hi)
  case unpkr => exact fun w hi _ => congrArg (commandWord 0x33 · _) (zero_eq_idxField hi)
  case unpkg => exact fun w hi _ => congrArg (commandWord 0x34 · _) (zero_eq_idxField hi)
  case unpkb => exact fun w hi _ => congrArg (commandWord 0x35 · _) (zero_eq_idxField hi)

/-- A word that a row accepts is the encoding of the command the row makes of it. -/
theorem OpRow.encode_build {r : OpRow} (h : r ∈ opcodeTable) {w : CmdWord} (haccepts : w &&& r.mask = r.pattern) :
    encode (r.build w) = w := by
  obtain ⟨hop, hrsv, hidx, hdata⟩ := (OpRow.accepts_iff_fields h w).1 haccepts
  calc encode (r.build w)
      = commandWord (opField r.pattern) (idxField w) (dataField w) := OpRow.reencodes r h w hidx hdata
    _ = opField w ++ rsvField w ++ idxField w ++ dataField w := by rw [← hop, hrsv]; rfl
    _ = w := (word_eq_fields w).symm

/-- A word that decodes is accepted by a row, which makes its command (R45). -/
theorem exists_row_of_decode {w : CmdWord} {i : Instr} (h : decode w = .ok i) :
    ∃ r ∈ opcodeTable, w &&& r.mask = r.pattern ∧ r.build w = i := by
  obtain ⟨r, hr, haccepts, hdec⟩ | ⟨-, hdec⟩ := decode_cases w
  · exact ⟨r, hr, haccepts, Except.ok.inj (hdec.symm.trans h)⟩
  · exact absurd (hdec.symm.trans h) nofun

/-- `Encode(Decode(w)) = w` for a non-reserved `w` (R56). -/
theorem encode_of_decode {w : CmdWord} {i : Instr} (h : decode w = .ok i) : encode i = w := by
  obtain ⟨r, hr, haccepts, rfl⟩ := exists_row_of_decode h
  exact OpRow.encode_build hr haccepts

end Sys2Proof
end

section
/-! SUPPORT. Reserved words (spec/30_encoding.md R46): the decoder's two errors in terms of the opcode and the parts its
format reserves, and the step's refusal of a reserved word. -/

namespace Sys2Proof

/-! ## The opcode classes of R46 -/

/-- The 16 values of `OP` that R45 assigns. -/
def assignedOpcodes : List (BitVec 8) :=
  [0x10, 0x11, 0x12, 0x13, 0x14, 0x15, 0x16, 0x17, 0x20, 0x21, 0x30, 0x31, 0x32, 0x33, 0x34, 0x35]
/-- The opcodes of the commands with an index: formats IC, IL and IX. -/
def indexOpcodes : List (BitVec 8) := [0x10, 0x12, 0x14, 0x16, 0x17]
/-- The opcodes with three colour bytes in `DATA`: formats IC and AC. -/
def colourOpcodes : List (BitVec 8) := [0x10, 0x12, 0x11, 0x13, 0x30]
/-- The opcodes with a level in `DATA`: formats IL and AL. -/
def levelOpcodes : List (BitVec 8) := [0x14, 0x15]
/-- The opcodes with nothing in `DATA`: formats IX and Z. -/
def noDataOpcodes : List (BitVec 8) := [0x16, 0x17, 0x20]

/-- A bit that the format of the word's opcode reserves is 1 (R46). -/
def HasReservedOne (w : CmdWord) : Prop :=
  rsvField w ≠ 0 ∨
    (opField w ∉ indexOpcodes ∧ idxField w ≠ 0) ∨
    (opField w ∈ colourOpcodes ∧ w.extractLsb' 24 8 ≠ 0) ∨
    (opField w ∈ levelOpcodes ∧ w.extractLsb' 5 27 ≠ 0) ∨
    (opField w ∈ noDataOpcodes ∧ dataField w ≠ 0) ∨
    (opField w = 0x21 ∧ w.extractLsb' 1 31 ≠ 0)

/-- The assigned opcodes are those of the table's rows. -/
theorem mem_assignedOpcodes {op : BitVec 8} : op ∈ assignedOpcodes ↔ ∃ r ∈ opcodeTable, opField r.pattern = op := by
  have h : assignedOpcodes = opcodeTable.map fun r => opField r.pattern := by decide
  rw [h, List.mem_map]

theorem assignedOpcode_iff {op : BitVec 8} : assignedOpcode op = true ↔ op ∈ assignedOpcodes := by
  simp [assignedOpcode, mem_assignedOpcodes]

/-- A row's format fixes all of `IDX` exactly if its command has no index. -/
theorem OpRow.idxMask_cases : ∀ r ∈ opcodeTable,
    (opField r.pattern ∈ indexOpcodes ∧ idxField r.mask = 0) ∨
    (opField r.pattern ∉ indexOpcodes ∧ idxField r.mask = 0xFFFF) := by decide

/-- The mask of `DATA` for each class of opcodes (R38); the classes exclude one another. -/
def DataMaskOf (op : BitVec 8) (mask : Beat) : Prop :=
  (op ∈ colourOpcodes ∧ op ∉ levelOpcodes ∧ op ∉ noDataOpcodes ∧ op ≠ 0x21 ∧ mask = 0xFF000000) ∨
  (op ∉ colourOpcodes ∧ op ∈ levelOpcodes ∧ op ∉ noDataOpcodes ∧ op ≠ 0x21 ∧ mask = 0xFFFFFFE0) ∨
  (op ∉ colourOpcodes ∧ op ∉ levelOpcodes ∧ op ∈ noDataOpcodes ∧ op ≠ 0x21 ∧ mask = 0xFFFFFFFF) ∨
  (op ∉ colourOpcodes ∧ op ∉ levelOpcodes ∧ op ∉ noDataOpcodes ∧ op = 0x21 ∧ mask = 0xFFFFFFFE) ∨
  (op ∉ colourOpcodes ∧ op ∉ levelOpcodes ∧ op ∉ noDataOpcodes ∧ op ≠ 0x21 ∧ mask = 0)

/-- What a row's format fixes of `DATA` is decided by the class of its opcode. -/
theorem OpRow.dataMaskOf : ∀ r ∈ opcodeTable, DataMaskOf (opField r.pattern) (dataField r.mask) := by
  unfold DataMaskOf; decide

/-- A value has a 1 under the mask of an opcode exactly if it has one in the part R46 names for the opcode's class. -/
theorem and_dataMask_ne_zero_iff {op : BitVec 8} {mask : Beat} (h : DataMaskOf op mask) (d : Beat) :
    d &&& mask ≠ 0 ↔
      (op ∈ colourOpcodes ∧ d.extractLsb' 24 8 ≠ 0) ∨ (op ∈ levelOpcodes ∧ d.extractLsb' 5 27 ≠ 0) ∨
        (op ∈ noDataOpcodes ∧ d ≠ 0) ∨ (op = 0x21 ∧ d.extractLsb' 1 31 ≠ 0) := by
  obtain ⟨hc, hl, hn, hf, rfl⟩ | ⟨hc, hl, hn, hf, rfl⟩ | ⟨hc, hl, hn, hf, rfl⟩ | ⟨hc, hl, hn, rfl, rfl⟩ |
    ⟨hc, hl, hn, hf, rfl⟩ := h
  · rw [ne_eq, and_highByte_eq_zero_iff]; simp only [hc, hl, hn, hf, true_and, false_and, or_false, ne_eq]
  · rw [ne_eq, and_aboveLevel_eq_zero_iff]; simp only [hc, hl, hn, hf, true_and, false_and, or_false, false_or, ne_eq]
  · rw [and_allBits]; simp only [hc, hl, hn, hf, true_and, false_and, or_false, false_or, ne_eq]
  · rw [ne_eq, and_aboveForce_eq_zero_iff]; simp only [hc, hl, hn, true_and, false_and, false_or, ne_eq]
  · have hzero : d &&& 0 = 0 := BitVec.and_zero
    simp only [hc, hl, hn, hf, hzero, false_and, or_false, ne_eq, not_true_eq_false]

/-! ## The two defects -/

/-- A word with a row's opcode is not that row's command exactly if a reserved bit is 1. -/
theorem OpRow.not_accepts_iff {r : OpRow} (h : r ∈ opcodeTable) {w : CmdWord} (hop : opField w = opField r.pattern) :
    w &&& r.mask ≠ r.pattern ↔ HasReservedOne w := by
  have hidx : idxField w &&& idxField r.mask ≠ 0 ↔ opField w ∉ indexOpcodes ∧ idxField w ≠ 0 := by
    rw [hop]
    obtain ⟨hclass, hmask⟩ | ⟨hclass, hmask⟩ := OpRow.idxMask_cases r h
    · simp [hclass, hmask]
    · rw [hmask, index_and_allBits]; simp [hclass]
  have hdata := and_dataMask_ne_zero_iff (hop ▸ OpRow.dataMaskOf r h) (dataField w)
  rw [dataField_extract w 24 8 (by omega), dataField_extract w 5 27 (by omega),
    dataField_extract w 1 31 (by omega)] at hdata
  rw [HasReservedOne, ← hidx, ← hdata, Ne, OpRow.accepts_iff_fields h w]
  simp only [hop, true_and, not_and_or, ne_eq]

/-- The decoder fails exactly if no row accepts the word (R46). -/
theorem decode_error_iff {w : CmdWord} :
    (∃ e, decode w = .error e) ↔ ∀ r ∈ opcodeTable, w &&& r.mask ≠ r.pattern := by
  constructor
  · rintro ⟨e, he⟩ r hr haccepts
    exact absurd ((decode_of_accepts hr haccepts).symm.trans he) nofun
  · intro hnone
    obtain ⟨r, hr, haccepts, -⟩ | ⟨-, hdec⟩ := decode_cases w
    · exact absurd haccepts (hnone r hr)
    · exact ⟨_, hdec⟩

/-- The decoder's error is the name that `decodeErrorOf` gives, where no row accepts. -/
theorem decode_eq_error_iff {w : CmdWord} {e : DecodeError} :
    decode w = .error e ↔ (∀ r ∈ opcodeTable, w &&& r.mask ≠ r.pattern) ∧ decodeErrorOf w = e := by
  obtain ⟨r, hr, haccepts, hdec⟩ | ⟨hnone, hdec⟩ := decode_cases w
  · exact ⟨fun h => absurd (hdec.symm.trans h) nofun, fun h => absurd haccepts (h.1 r hr)⟩
  · rw [hdec]
    exact ⟨fun h => ⟨hnone, Except.error.inj h⟩, fun h => congrArg _ h.2⟩

/-- The opcode of a word that a row accepts is assigned. -/
theorem OpRow.assigned_of_accepts {r : OpRow} (h : r ∈ opcodeTable) {w : CmdWord}
    (haccepts : w &&& r.mask = r.pattern) : opField w ∈ assignedOpcodes :=
  mem_assignedOpcodes.2 ⟨r, h, ((OpRow.accepts_iff_fields h w).1 haccepts).1.symm⟩

/-- A word is named for its opcode exactly if that is none of the 16 (R46). -/
theorem decode_unassigned_iff {w : CmdWord} :
    decode w = .error .unassignedOpcode ↔ opField w ∉ assignedOpcodes := by
  rw [decode_eq_error_iff, decodeErrorOf, ← assignedOpcode_iff]
  constructor
  · rintro ⟨-, herror⟩ hassigned
    simp [hassigned] at herror
  · intro hunassigned
    refine ⟨fun r hr haccepts => ?_, if_neg hunassigned⟩
    exact hunassigned (assignedOpcode_iff.2 (OpRow.assigned_of_accepts hr haccepts))

/-- A word is named for its reserved bits exactly if its opcode is assigned and a bit its format reserves is 1 (R46). -/
theorem decode_reservedBits_iff {w : CmdWord} :
    decode w = .error .reservedBits ↔ opField w ∈ assignedOpcodes ∧ HasReservedOne w := by
  rw [decode_eq_error_iff, decodeErrorOf, ← assignedOpcode_iff]
  constructor
  · rintro ⟨hnone, herror⟩
    have hassigned : assignedOpcode (opField w) = true := by
      by_contra hunassigned
      simp [hunassigned] at herror
    obtain ⟨r, hr, hop⟩ := mem_assignedOpcodes.1 (assignedOpcode_iff.1 hassigned)
    exact ⟨hassigned, (OpRow.not_accepts_iff hr hop.symm).1 (hnone r hr)⟩
  · rintro ⟨hassigned, hreserved⟩
    refine ⟨fun r hr haccepts => ?_, if_pos hassigned⟩
    have hop := ((OpRow.accepts_iff_fields hr w).1 haccepts).1
    exact (OpRow.not_accepts_iff hr hop).2 hreserved haccepts

namespace Machine

/-- In IDLE a presented word that is reserved is refused (R46, R84). -/
theorem step_of_reserved {s : State} {w : CmdWord} {rest : List HostInput} {e : DecodeError} (hphase : s.phase = .idle)
    (hhost : s.host = .cmd w :: rest) (hdec : decode w = .error e) : step s = .refused (refusalOf w e) := by
  have haction : s.nextAction = .accept w := by rw [State.nextAction, hphase, hhost]
  rw [step, haction]
  simp only [hdec]

end Machine

end Sys2Proof
end

section
/-! SUPPORT. Assembly of one line (spec/30_encoding.md R54): numerals that fit their fields go into the fields and come back
unchanged (R40). -/

namespace Sys2Proof

/-! ## Numerals and fields (R40) -/

/-- A field's value fits the field. -/
@[simp] theorem fits_toNat {n : Nat} (x : BitVec n) : fits n x.toNat = true := decide_eq_true x.isLt

@[simp] theorem fits_one_toNat (force : Bool) : fits 1 force.toNat = true := by cases force <;> rfl

/-- A numeral that fits is not truncated. -/
theorem toNat_ofNat_of_fits {width n : Nat} (h : fits width n = true) : (BitVec.ofNat width n).toNat = n := by
  rw [BitVec.toNat_ofNat, Nat.mod_eq_of_lt (of_decide_eq_true h)]

theorem toNat_decide_of_fits {n : Nat} (h : fits 1 n = true) : (decide (n = 1)).toNat = n := by
  have hn : n < 2 := of_decide_eq_true h
  obtain rfl | rfl : n = 0 ∨ n = 1 := by omega
  · rfl
  · rfl

/-! ## Lines -/

/-- A line is assembled to its command if its numerals fit, and to nothing otherwise (R54). -/
theorem Asm.assemble_eq_some_iff {a : Asm} {i : Instr} :
    a.assemble = some i ↔ a.wellFormed = true ∧ a.command = i := by
  simp [Asm.assemble]

/-- The numerals of a command's own line fit. -/
theorem Instr.toAsm_wellFormed (i : Instr) : i.toAsm.wellFormed = true := by
  cases i <;> simp [Instr.toAsm, Asm.wellFormed]

/-- A command's own line stands for the command. -/
theorem Instr.command_toAsm (i : Instr) : i.toAsm.command = i := by
  cases i with
  | update force => cases force <;> rfl
  | _ => simp [Instr.toAsm, Asm.command]

/-- Apart from the pseudo-instructions, a line whose numerals fit is its command's own line: no numeral is truncated. -/
theorem Asm.toAsm_command {a : Asm} (hflush : a ≠ .flush) (hsync : a ≠ .sync) (h : a.wellFormed = true) :
    a.command.toAsm = a := by
  cases a with
  | flush => exact absurd rfl hflush
  | sync => exact absurd rfl hsync
  | update force => exact congrArg Asm.update (toNat_decide_of_fits h)
  | _ =>
    simp only [Asm.wellFormed, Bool.and_eq_true] at h
    simp only [Asm.command, Instr.toAsm, toNat_ofNat_of_fits, h]

end Sys2Proof
end

section
/-! SUPPORT. The CMD byte as a number and the frame by offset (spec/30_encoding.md R47 to R51). -/

namespace Sys2Proof.Machine

/-! ## The packet -/

/-- `Cmd(e) = 0xE0 + e.bright` as numbers, where the marker is set (R47). -/
theorem cmdByte_toNat {e : LedEntry} (h : e.marker = packetMarker) : (cmdByte e).toNat = 0xE0 + e.bright.toNat := by
  have hlt : e.bright.toNat < 2 ^ 5 := e.bright.isLt
  rw [cmdByte, h, BitVec.toNat_append, ← Nat.shiftLeft_add_eq_or_of_lt hlt]
  rfl

/-- `Word(e)` is the packet's bytes, CMD at the top (R12, R48). -/
theorem entryWord_eq_bytes (e : LedEntry) : entryWord e = cmdByte e ++ e.blue ++ e.green ++ e.red := rfl

/-- A packed colour is its three channels (R52, R59). -/
theorem fullOnPacked_eq (p : Packed24) :
    fullOnPacked p = fullOn (p.extractLsb' 16 8) (p.extractLsb' 8 8) (p.extractLsb' 0 8) := by
  have hbits (k : Nat) (hk : k + 8 ≤ 24) : (p.setWidth 32).extractLsb' k 8 = p.extractLsb' k 8 := by
    apply BitVec.eq_of_getLsbD_eq
    intro i hi
    simp only [BitVec.getLsbD_extractLsb', BitVec.getLsbD_setWidth, decide_eq_true (show k + i < 32 by omega),
      Bool.true_and]
  simp only [fullOnPacked, unpackRed, unpackGreen, unpackBlue, hbits 16 (by omega), hbits 8 (by omega),
    hbits 0 (by omega)]

/-! ## The frame -/

section
variable (leds : List LedEntry)

/-- A frame has `FRAME_LEN` bytes (R51). -/
@[simp] theorem frameOf_length : (frameOf leds).length = 8 + 4 * leds.length := by
  simp only [frameOf, List.length_append, startMarker_length, packets_length, endMarker_length]
  omega

/-- Offsets 0 to 3 hold the start marker (R50). -/
theorem frameOf_getElem?_start {k : Nat} (hk : k < 4) : (frameOf leds)[k]? = some 0x00 := by
  have hstart : startMarker = List.replicate 4 0 := rfl
  rw [frameOf, List.append_assoc, List.getElem?_append_left hk, hstart, List.getElem?_replicate_of_lt hk]

/-- Offset `4 + 4*i + j` holds byte `j` of the packet of entry `i` (R50). -/
theorem frameOf_getElem?_packet {i j : Nat} {e : LedEntry} (he : leds[i]? = some e) (hj : j < 4) :
    (frameOf leds)[4 + 4 * i + j]? = (packet e)[j]? := by
  obtain ⟨hi, -⟩ := List.getElem?_eq_some_iff.1 he
  have hoffset : 4 + 4 * i + j - startMarker.length = 4 * i + j := by rw [startMarker_length]; omega
  rw [frameOf, List.append_assoc, List.getElem?_append_right (by rw [startMarker_length]; omega), hoffset,
    List.getElem?_append_left (by rw [packets_length]; omega), packets_getElem? leds i j hj, he, Option.bind_some]

/-- The four offsets from `4 + 4*N` hold the end marker (R50). -/
theorem frameOf_getElem?_end {k : Nat} (hk : k < 4) : (frameOf leds)[4 + 4 * leds.length + k]? = some 0xFF := by
  have hend : endMarker = List.replicate 4 0xFF := rfl
  have hlen : (startMarker ++ leds.flatMap packet).length = 4 + 4 * leds.length := by
    rw [List.length_append, startMarker_length, packets_length]
  rw [frameOf, List.getElem?_append_right (by omega), hlen, Nat.add_sub_cancel_left, hend,
    List.getElem?_replicate_of_lt hk]

/-- There is nothing beyond `7 + 4*N` (R50). -/
theorem frameOf_getElem?_beyond {k : Nat} (hk : 8 + 4 * leds.length ≤ k) : (frameOf leds)[k]? = none :=
  List.getElem?_eq_none ((frameOf_length leds).trans_le hk)

end

/-- The packets of a store determine the store: each takes four bytes and determines its entry. -/
theorem packets_injective : Function.Injective fun leds : List LedEntry => leds.flatMap packet := by
  intro leds
  induction leds with
  | nil =>
    intro leds' h
    cases leds' with
    | nil => rfl
    | cons e' es' => exact absurd h (by simp [packet])
  | cons e es ih =>
    intro leds' h
    cases leds' with
    | nil => exact absurd (congrArg List.length h) (by simp)
    | cons e' es' =>
      simp only [List.flatMap_cons] at h
      obtain ⟨hhead, htail⟩ := List.append_inj h ((packet_length e).trans (packet_length e').symm)
      rw [packet_injective hhead, ih htail]

/-- A frame determines its store (R51). -/
theorem frameOf_inj {leds leds' : List LedEntry} : frameOf leds = frameOf leds' ↔ leds = leds' := by
  refine ⟨fun h => ?_, congrArg frameOf⟩
  have hpackets := List.append_cancel_left (List.append_cancel_right h)
  exact packets_injective hpackets

end Sys2Proof.Machine
end

section
/-! The statements of the family spec/30_encoding.md. -/

namespace Sys2Proof.Machine

/-- Settles O1: the row of a command reads back the operands that `encode` wrote (`decode_encode`). -/
theorem decodeOfEncodeIsIdentity : Obligations.DecodeOfEncodeIsIdentity := decode_encode

/-- Settles O2: a row makes its command of every bit its format leaves free (`encode_of_decode`). -/
theorem encodeOfDecodeIsIdentity : Obligations.EncodeOfDecodeIsIdentity := fun _ _ => encode_of_decode

/-- Settles O3: the decoder answers with the one row that accepts, and a row's commands have its name, which no other row
has. -/
theorem opcodeMapDecidesTheCommand : Obligations.OpcodeMapDecidesTheCommand := by
  refine ⟨rfl, fun w row hrow => ⟨fun haccepts => ?_, ?_⟩, fun w i hdec => ?_⟩
  · exact ⟨row.build w, decode_of_accepts hrow haccepts, OpRow.build_mnemonic hrow w⟩
  · rintro ⟨i, hdec, hname⟩
    obtain ⟨r, hr, haccepts, rfl⟩ := exists_row_of_decode hdec
    obtain rfl : r = row := OpRow.eq_of_mnemonic hr hrow ((OpRow.build_mnemonic hr w).symm.trans hname)
    exact haccepts
  · obtain ⟨r, hr, haccepts, -⟩ := exists_row_of_decode hdec
    exact ⟨r, hr, haccepts⟩

/-- Settles O4: the rows' opcodes differ (`OpRow.eq_of_accepts`). -/
theorem opcodeRowsAreDisjoint : Obligations.OpcodeRowsAreDisjoint := fun _ _ hrow _ hrow' haccepts haccepts' =>
  congrArg OpRow.mnemonic (OpRow.eq_of_accepts hrow hrow' haccepts haccepts')

/-- Settles O5: a word that no row accepts has no row's opcode, or has a row's opcode and a 1 in what the row's format
reserves (`decode_unassigned_iff`, `decode_reservedBits_iff`). -/
theorem reservedWordsAreNamedByDefect : Obligations.ReservedWordsAreNamedByDefect := fun _ =>
  ⟨decode_unassigned_iff, decode_reservedBits_iff, decode_error_iff,
    fun _ _ _ hdec hphase hhost => ⟨_, step_of_reserved hphase hhost hdec⟩⟩

/-- Settles O7: a line is assembled exactly if its numerals fit, and a numeral that fits a field is the field's value. -/
theorem assemblyIsExactOnFittingNumerals : Obligations.AssemblyIsExactOnFittingNumerals := by
  refine ⟨fun a => ⟨?_, fun h => ?_⟩, fun i => ?_, fun a i hflush hsync h => ?_⟩
  · rintro ⟨i, h⟩
    exact (Asm.assemble_eq_some_iff.1 h).1
  · exact ⟨a.command, Asm.assemble_eq_some_iff.2 ⟨h, rfl⟩⟩
  · exact Asm.assemble_eq_some_iff.2 ⟨i.toAsm_wellFormed, i.command_toAsm⟩
  · obtain ⟨hfits, rfl⟩ := Asm.assemble_eq_some_iff.1 h
    exact Asm.toAsm_command hflush hsync hfits

/-- Settles O8: the CMD byte as a number (`cmdByte_toNat`). -/
theorem cmdByteIsMarkerAndBrightness : Obligations.CmdByteIsMarkerAndBrightness := by
  intro e hmarker
  have hcmd := cmdByte_toNat hmarker
  refine ⟨congrArg (· ++ e.bright) hmarker, BitVec.eq_of_toNat_eq ?_, by omega, fun hbright => BitVec.eq_of_toNat_eq ?_⟩
  · have hbase : (0xE0#8).toNat = 0xE0 := rfl
    rw [hcmd, BitVec.toNat_add, BitVec.toNat_setWidth, hbase]
    omega
  · rw [hcmd, hbright]; rfl

/-- Settles O9: the packed view is the packet's four bytes (`entryWord_eq_bytes`). -/
theorem packetIsCmdBlueGreenRed : Obligations.PacketIsCmdBlueGreenRed := by
  intro e
  refine ⟨rfl, ?_⟩
  rw [entryWord_eq_bytes, fourBytes_byte3, fourBytes_byte2, fourBytes_byte1, fourBytes_byte0]
  rfl

/-- Settles O10: the frame is the start marker, the packets and the end marker, read at each of their offsets. -/
theorem frameIsLaidOutByOffset : Obligations.FrameIsLaidOutByOffset := fun s =>
  ⟨fun _ => frameOf_getElem?_start s.leds, fun _ _ he _ => frameOf_getElem?_packet s.leds he,
    fun _ => frameOf_getElem?_end s.leds, fun _ => frameOf_getElem?_beyond s.leds⟩

/-- Settles O11: a packet's first byte is its CMD byte, and the frame determines the packets, which determine the store. -/
theorem frameLengthAndFaithfulness : Obligations.FrameLengthAndFaithfulness := by
  refine ⟨frameOf_length, fun s hmarkers i hi => ?_, by decide, fun _ _ => frameOf_inj⟩
  have hcmd := cmdByte_toNat (hmarkers s.leds[i] (List.getElem_mem hi))
  exact ⟨cmdByte s.leds[i], frameOf_getElem?_packet s.leds (j := 0) (List.getElem?_eq_getElem hi) (by omega), by omega⟩

/-- Settles O24: LEDOFF and LEDON write the levels 0 and 31, and a packed colour is its three channels
(`fullOnPacked_eq`). -/
theorem commandsEqualInEffect : Obligations.CommandsEqualInEffect := by
  refine ⟨rfl, rfl, fun s => ⟨fun _ => rfl, fun _ => rfl, fun idx p => ?_, fun p => ?_⟩⟩
  · simp only [exec, execSetrgb, execSetcol, fullOnPacked_eq]
  · simp only [exec, execSetrgbAll, execSetcolAll, fullOnPacked_eq]

/-- Settles O42: in IDLE the presented word is accepted (`step_of_accept`). -/
theorem stepRunsTheDecodedCommand : Obligations.StepRunsTheDecodedCommand := by
  intro s w rest i hphase hhost hdec
  have hpop : s.popHost = { s with host := rest } := by rw [State.popHost, hhost, List.tail_cons]
  rw [step_of_accept hphase hhost hdec, hpop]

/-- Settles O43: in INIT the construction sequence runs (`step_of_init`), and it drops nothing but a quiet moment. -/
theorem commandWaitsForConstruction : Obligations.CommandWaitsForConstruction := by
  intro s w rest hphase hhost
  have hstep : step s = .next s.construct.dropQuiet := step_of_init hphase (by simp [hhost])
  have hkept : s.construct.dropQuiet = s.construct := by
    unfold State.dropQuiet
    split
    · next h => simp [hhost] at h
    · rfl
  rw [hkept] at hstep
  exact ⟨_, s.latchFrame.nextTransfer, hstep, s.construct_phase, hhost, s.construct_leds, s.construct_dirty,
    s.construct_trace⟩

end Sys2Proof.Machine
end

section
/-! SUPPORT. Setters and the frame (spec/40_set_color.md R57 to R61): the words of a row, what a write of one entry or of
every entry leaves in the store and in the frame offset space (spec/20_memory.md R28), and the `UPDATE` that follows it. -/

namespace Sys2Proof.Machine

/-! ## The words of a row -/

/-- A row's command is made of the words the row accepts, and of no others (R45). -/
theorem decodesAs_of_mem {r : OpRow} (h : r ∈ opcodeTable) : DecodesAs r.mask r.pattern r.build := by
  refine fun w => ⟨decode_of_accepts h, fun hdec => ?_⟩
  obtain ⟨r', h', haccepts, hbuild⟩ := exists_row_of_decode hdec
  have hname : r'.mnemonic = r.mnemonic := by rw [← OpRow.build_mnemonic h' w, hbuild, OpRow.build_mnemonic h w]
  obtain rfl : r' = r := OpRow.eq_of_mnemonic h' h hname
  exact haccepts

/-! ## The store after a setter -/

section
variable {i : Instr} {s t : State}

/-- Beside the entries, every setter does the same (R14). -/
theorem exec_setterFrame (hi : isSetter i = true) (h : exec i s = .next t) : SetterFrame s t := by
  obtain ⟨leds, hexec, hlen, -⟩ := exec_setter hi s
  obtain rfl := Host.Outcome.next.inj (hexec.symm.trans h)
  exact ⟨rfl, rfl, rfl, rfl, rfl, rfl, hlen⟩

/-- A setter with an index writes the entry at the index, if there is one, and no other entry (R21, R22). -/
theorem exec_modifyLed (hi : isSetter i = true) {idx : Index} {f : LedEntry → LedEntry}
    (h : exec i s = .next (s.modifyLed idx f).setDirty) :
    ∃ t, exec i s = .next t ∧ SetterFrame s t ∧
      (∀ e, s.leds[idx.toNat]? = some e → t.leds[idx.toNat]? = some (f e)) ∧
      (s.leds.length ≤ idx.toNat → t.leds = s.leds) ∧
      ∀ j, j ≠ idx.toNat → t.leds[j]? = s.leds[j]? := by
  refine ⟨_, h, exec_setterFrame hi h, fun e he => ?_, fun hout => ?_, fun j hj => ?_⟩ <;>
    rw [State.setDirty_leds, State.modifyLed_leds]
  · rw [List.getElem?_modify_eq, he, Option.map_eq_map, Option.map_some]
  · exact List.modify_eq_self hout
  · exact List.getElem?_modify_ne f s.leds hj.symm

/-- A setter without an index writes every entry (R21). -/
theorem exec_modifyAll (hi : isSetter i = true) {f : LedEntry → LedEntry}
    (h : exec i s = .next (s.modifyAll f).setDirty) :
    ∃ t, exec i s = .next t ∧ SetterFrame s t ∧
      ∀ (k : Nat) (e : LedEntry), s.leds[k]? = some e → t.leds[k]? = some (f e) := by
  refine ⟨_, h, exec_setterFrame hi h, fun k e he => ?_⟩
  rw [State.setDirty_leds, State.modifyAll_leds, List.getElem?_map, he, Option.map_some]

end

/-! ## The colour of a packed operand -/

/-- Three channels packed in 24 bits are the packed colour word (R52, R72). -/
theorem threeBytes_setWidth (r g b : Byte) : (r ++ g ++ b : Packed24).setWidth 32 = packRGB r g b := by
  calc (r ++ g ++ b : Packed24).setWidth 32
      = 0#8 ++ (r ++ g ++ b) := BitVec.setWidth_eq_append (by omega)
    _ = 0#8 ++ (r ++ g) ++ b := (BitVec.append_assoc ..).symm
    _ = 0#8 ++ r ++ g ++ b := congrArg (· ++ b) (BitVec.append_assoc ..).symm

/-- The entry of a packed colour is that of its channels (R59). -/
theorem fullOnPacked_threeBytes (r g b : Byte) : fullOnPacked (r ++ g ++ b) = fullOn r g b := by
  simp only [fullOnPacked, threeBytes_setWidth, packRGB, unpackRed, unpackGreen, unpackBlue, fourBytes_byte2,
    fourBytes_byte1, fourBytes_byte0]

/-! ## The frame offset space after a setter -/

/-- Two stores of one length have the same byte at an offset if the packets that hold the offset, where there are any,
have (R50). -/
theorem frameOf_getElem?_congr {leds leds' : List LedEntry} (hlen : leds.length = leds'.length) {a : Nat}
    (h : ∀ i j, a = 4 + 4 * i + j → j < 4 → ∀ e e', leds[i]? = some e → leds'[i]? = some e' →
      (packet e)[j]? = (packet e')[j]?) :
    (frameOf leds)[a]? = (frameOf leds')[a]? := by
  obtain hstart | ⟨i, j, rfl, hj⟩ : a < 4 ∨ ∃ i j, a = 4 + 4 * i + j ∧ j < 4 := by
    by_cases ha : a < 4
    · exact .inl ha
    · exact .inr ⟨(a - 4) / 4, (a - 4) % 4, by omega, by omega⟩
  · rw [frameOf_getElem?_start leds hstart, frameOf_getElem?_start leds' hstart]
  obtain hi | rfl | hi : i < leds.length ∨ i = leds.length ∨ leds.length < i := by omega
  · have he := List.getElem?_eq_getElem hi
    have he' := List.getElem?_eq_getElem (hlen ▸ hi)
    rw [frameOf_getElem?_packet leds he hj, frameOf_getElem?_packet leds' he' hj]
    exact h i j rfl hj _ _ he he'
  · rw [frameOf_getElem?_end leds hj, hlen, frameOf_getElem?_end leds' hj]
  · rw [frameOf_getElem?_beyond leds (by omega), frameOf_getElem?_beyond leds' (by omega)]

/-- The CMD byte at full brightness (R47). -/
theorem cmdByte_fullOn (r g b : Byte) : cmdByte (fullOn r g b) = 0xFF := by
  calc cmdByte (fullOn r g b) = packetMarker ++ brightMax := rfl
    _ = 0xFF := by decide

/-- The four bytes of entry `k` in the frame are those a colour setter writes (R61). -/
def State.HoldsColour (s : State) (k : Nat) (r g b : Byte) : Prop :=
  s.memRead (4 + 4 * k) = some 0xFF ∧ s.memRead (5 + 4 * k) = some b ∧
    s.memRead (6 + 4 * k) = some g ∧ s.memRead (7 + 4 * k) = some r

section
variable {s t : State}

/-- An entry at full brightness stands in the frame with its colour (R47, R48, R50). -/
theorem State.holdsColour_of_fullOn {k : Nat} {r g b : Byte} (h : s.leds[k]? = some (fullOn r g b)) :
    s.HoldsColour k r g b := by
  have hbyte (j : Nat) (hj : j < 4) : s.memRead (4 + j + 4 * k) = (packet (fullOn r g b))[j]? := by
    rw [State.memRead, Nat.add_right_comm, frameOf_getElem?_packet s.leds h hj]
  have hcmd : (packet (fullOn r g b))[0]? = some 0xFF := congrArg some (cmdByte_fullOn r g b)
  exact ⟨(hbyte 0 (by omega)).trans hcmd, hbyte 1 (by omega), hbyte 2 (by omega), hbyte 3 (by omega)⟩

/-- The frame reads as before outside the packet of the one entry that may have changed (R28, R50). -/
theorem State.memRead_eq_of_other_entries {k : Nat} (hlen : t.leds.length = s.leds.length)
    (hother : ∀ j, j ≠ k → t.leds[j]? = s.leds[j]?) {a : Nat} (ha : ¬(4 + 4 * k ≤ a ∧ a < 8 + 4 * k)) :
    t.memRead a = s.memRead a := by
  refine frameOf_getElem?_congr hlen fun i j hij hj e e' he he' => ?_
  have hee' : some e = some e' := he.symm.trans ((hother i (by omega)).trans he')
  rw [Option.some.inj hee']

/-- With the flag set, `UPDATE 0` transmits (R68). -/
theorem exec_update_of_dirty (h : s.dirty = true) : exec (.update false) s = .next s.transmit := by
  have hmust : s.mustTransmit false = true := by rw [State.mustTransmit, h, Bool.true_or]
  exact congrArg Host.Outcome.next (if_pos hmust)

/-- After a setter that changed no entry, `UPDATE 0` transfers the frame as it was (R22, R61). -/
theorem SetterFrame.update_transfers (hframe : SetterFrame s t) (hleds : t.leds = s.leds) :
    ∃ u tr, exec (.update false) t = .next u ∧ u.transfers = s.transfers ++ [tr] ∧ tr.buffer = frameOf s.leds := by
  have htransfers : t.transfers = s.transfers := congrArg (List.filterMap Event.transfer?) hframe.trace
  refine ⟨_, t.latchFrame.nextTransfer, exec_update_of_dirty hframe.dirty, ?_, ?_⟩
  · rw [State.transmit_transfers, htransfers]
  · rw [State.latchFrame_nextTransfer_buffer, hleds]

end

end Sys2Proof.Machine
end

section
/-! The statements of the family spec/40_set_color.md. -/

namespace Sys2Proof.Machine

/-- Settles O13: the words are those of SETCOL's row (`decodesAs_of_mem`), and the meaning is a checked write of one entry
(`exec_modifyLed`). -/
theorem setcolWritesOneEntry : Obligations.SetcolWritesOneEntry := by
  refine ⟨decodesAs_of_mem (r := setterRows[0]) (by simp [opcodeTable]), fun idx r g b s => ?_⟩
  obtain ⟨t, hexec, hframe, hwrite, hout, hother⟩ :=
    exec_modifyLed (i := .setcol idx r g b) (s := s) (f := fun _ => fullOn r g b) rfl rfl
  exact ⟨t, hexec, hframe, fun hin => hwrite _ (List.getElem?_eq_getElem hin), hout, hother⟩

/-- Settles O14: the words are those of SETCOL.ALL's row, and the meaning is a write of every entry (`exec_modifyAll`). -/
theorem setcolAllWritesEveryEntry : Obligations.SetcolAllWritesEveryEntry := by
  refine ⟨decodesAs_of_mem (r := setterRows[1]) (by simp [opcodeTable]), fun r g b s => ?_⟩
  obtain ⟨t, hexec, hframe, hwrite⟩ :=
    exec_modifyAll (i := .setcolAll r g b) (s := s) (f := fun _ => fullOn r g b) rfl rfl
  exact ⟨t, hexec, hframe, fun k hk => hwrite k _ (List.getElem?_eq_getElem hk)⟩

/-- Settles O15: as SETCOL, with the channels that the packed operand holds (`fullOnPacked_eq`). -/
theorem setrgbWritesOneEntry : Obligations.SetrgbWritesOneEntry := by
  refine ⟨decodesAs_of_mem (r := setterRows[2]) (by simp [opcodeTable]), fun idx p s => ?_⟩
  obtain ⟨t, hexec, hframe, hwrite, hout, hother⟩ :=
    exec_modifyLed (i := .setrgb idx p) (s := s) (f := fun _ => fullOnPacked p) rfl rfl
  rw [fullOnPacked_eq] at hwrite
  exact ⟨t, hexec, hframe, fun hin => hwrite _ (List.getElem?_eq_getElem hin), hout, hother⟩

/-- Settles O16: as SETCOL.ALL, with the channels that the packed operand holds (`fullOnPacked_eq`). -/
theorem setrgbAllWritesEveryEntry : Obligations.SetrgbAllWritesEveryEntry := by
  refine ⟨decodesAs_of_mem (r := setterRows[3]) (by simp [opcodeTable]), fun p s => ?_⟩
  obtain ⟨t, hexec, hframe, hwrite⟩ :=
    exec_modifyAll (i := .setrgbAll p) (s := s) (f := fun _ => fullOnPacked p) rfl rfl
  rw [fullOnPacked_eq] at hwrite
  exact ⟨t, hexec, hframe, fun k hk => hwrite k _ (List.getElem?_eq_getElem hk)⟩

/-- Settles O17: both commands of a pair write the entry `fullOn r g b` (`fullOnPacked_threeBytes`); its packet holds the
colour (`State.holdsColour_of_fullOn`), the other packets are as before, and a rejected write leaves the flag for the next
`UPDATE` (`SetterFrame.update_transfers`). -/
theorem colourSettersWriteFrameBytes : Obligations.ColourSettersWriteFrameBytes := by
  intro idx r g b s
  refine ⟨fun i hi => ?_, fun i hi => ?_⟩
  · obtain ⟨hset, hmeaning⟩ :
        isSetter i = true ∧ exec i s = .next (s.modifyLed idx fun _ => fullOn r g b).setDirty := by
      obtain rfl | rfl : i = .setcol idx r g b ∨ i = .setrgb idx (r ++ g ++ b) := by simpa using hi
      · exact ⟨rfl, rfl⟩
      · refine ⟨rfl, ?_⟩
        rw [← fullOnPacked_threeBytes]; rfl
    obtain ⟨t, hexec, hframe, hwrite, hout, hother⟩ := exec_modifyLed hset hmeaning
    refine ⟨t, hexec, fun hin => ?_, fun a ha => ?_, fun hrejected => ⟨fun a => ?_, ?_⟩⟩
    · exact State.holdsColour_of_fullOn (hwrite _ (List.getElem?_eq_getElem hin))
    · exact State.memRead_eq_of_other_entries hframe.stripLen hother ha
    · rw [State.memRead, hout hrejected, State.memRead]
    · exact hframe.update_transfers (hout hrejected)
  · obtain ⟨hset, hmeaning⟩ : isSetter i = true ∧ exec i s = .next (s.modifyAll fun _ => fullOn r g b).setDirty := by
      obtain rfl | rfl : i = .setcolAll r g b ∨ i = .setrgbAll (r ++ g ++ b) := by simpa using hi
      · exact ⟨rfl, rfl⟩
      · refine ⟨rfl, ?_⟩
        rw [← fullOnPacked_threeBytes]; rfl
    obtain ⟨t, hexec, -, hwrite⟩ := exec_modifyAll hset hmeaning
    exact ⟨t, hexec, fun k hk => State.holdsColour_of_fullOn (hwrite k _ (List.getElem?_eq_getElem hk))⟩

end Sys2Proof.Machine
end

section
/-! SUPPORT. The illumination setters in the frame (spec/41_set_illumination.md R66): the CMD byte of an entry, and the
offsets at which stores that differ in brightness alone read the same. -/

namespace Sys2Proof.Machine

/-- Brightness is in the CMD byte alone: the other bytes of the packet are the colours (R48). -/
theorem packet_withBright_getElem? (e : LedEntry) (level : Level) {j : Nat} (hj : j ≠ 0) :
    (packet (e.withBright level))[j]? = (packet e)[j]? := by
  obtain ⟨k, rfl⟩ := Nat.exists_eq_succ_of_ne_zero hj
  rfl

section
variable {s t : State}

/-- The CMD byte of an entry stands at offset `4 + 4*k` (R50). -/
theorem State.memRead_cmdByte {k : Nat} {e : LedEntry} (he : s.leds[k]? = some e) :
    s.memRead (4 + 4 * k) = some (cmdByte e) :=
  frameOf_getElem?_packet s.leds (j := 0) he (by omega)

/-- An entry whose marker is set and whose brightness was written shows the level in its CMD byte (R47, R66). -/
theorem State.memRead_of_withBright (hmarkers : s.MarkersSet) {k : Nat} {e : LedEntry} {level : Level}
    (he : s.leds[k]? = some e) (hwrite : t.leds[k]? = some (e.withBright level)) :
    t.memRead (4 + 4 * k) = some (0xE0#8 + level.setWidth 8) := by
  have hmarker : (e.withBright level).marker = packetMarker := hmarkers e (List.mem_of_getElem? he)
  obtain ⟨-, hcmd, -⟩ := cmdByteIsMarkerAndBrightness (e.withBright level) hmarker
  exact (State.memRead_cmdByte hwrite).trans (congrArg some hcmd)

/-- If every entry keeps marker and colours, an offset reads as before unless it is the CMD byte of an entry that changed
(R66). -/
theorem State.memRead_eq_of_withBright (hlen : t.leds.length = s.leds.length)
    (hbright : ∀ (k : Nat) (e : LedEntry), s.leds[k]? = some e → ∃ level, t.leds[k]? = some (e.withBright level))
    {a : Nat} (ha : ∀ k : Nat, a = 4 + 4 * k → t.leds[k]? = s.leds[k]?) : t.memRead a = s.memRead a := by
  refine frameOf_getElem?_congr hlen fun k j hkj hj e' e he' he => ?_
  by_cases hcmd : j = 0
  · have hkept : some e' = some e := by rw [← he', ← he, ha k (by omega)]
    rw [Option.some.inj hkept]
  · obtain ⟨level, hwrite⟩ := hbright k e he
    obtain rfl : e' = e.withBright level := Option.some.inj (he'.symm.trans hwrite)
    exact packet_withBright_getElem? e level hcmd

end

end Sys2Proof.Machine
end

section
/-! The statements of the family spec/41_set_illumination.md. -/

namespace Sys2Proof.Machine

/-- Settles O18: the words are those of SETILL's row (`decodesAs_of_mem`), and the meaning is a checked write of one
entry's brightness (`exec_modifyLed`). -/
theorem setillWritesBrightnessOnly : Obligations.SetillWritesBrightnessOnly :=
  ⟨decodesAs_of_mem (r := setterRows[4]) (by simp [opcodeTable]), fun idx level _ =>
    exec_modifyLed (i := .setill idx level) (f := fun e => e.withBright level) rfl rfl⟩

/-- Settles O19: the words are those of SETILL.ALL's row, and the meaning is a write of every entry's brightness
(`exec_modifyAll`). -/
theorem setillAllWritesEveryBrightness : Obligations.SetillAllWritesEveryBrightness :=
  ⟨decodesAs_of_mem (r := setterRows[5]) (by simp [opcodeTable]), fun level _ =>
    exec_modifyAll (i := .setillAll level) (f := fun e => e.withBright level) rfl rfl⟩

/-- Settles O20: as SETILL, with LEDOFF's row and the level 0. -/
theorem ledoffClearsBrightness : Obligations.LedoffClearsBrightness :=
  ⟨decodesAs_of_mem (r := setterRows[6]) (by simp [opcodeTable]), fun idx _ =>
    exec_modifyLed (i := .ledoff idx) (f := fun e => e.withBright 0) rfl rfl⟩

/-- Settles O21: as SETILL, with LEDON's row and the level `BRIGHT_MAX`, which is 31. -/
theorem ledonSetsFullBrightness : Obligations.LedonSetsFullBrightness :=
  ⟨decodesAs_of_mem (r := setterRows[7]) (by simp [opcodeTable]), fun idx _ =>
    exec_modifyLed (i := .ledon idx) (f := fun e => e.withBright brightMax) rfl rfl⟩

/-- Settles O22: all four commands write brightness alone; a written entry shows the level in its CMD byte
(`State.memRead_of_withBright`), and every other offset reads as before (`State.memRead_eq_of_withBright`). -/
theorem illuminationSettersChangeCmdByteOnly : Obligations.IlluminationSettersChangeCmdByteOnly := by
  intro s hmarkers
  refine ⟨fun idx level p hp => ?_, fun level => ?_⟩
  · obtain ⟨hset, hmeaning⟩ : isSetter p.1 = true ∧
        exec p.1 s = .next (s.modifyLed idx fun e => e.withBright p.2).setDirty := by
      obtain rfl | rfl | rfl :
          p = (.setill idx level, level) ∨ p = (.ledoff idx, 0) ∨ p = (.ledon idx, 31) := by simpa using hp
      all_goals exact ⟨rfl, rfl⟩
    obtain ⟨t, hexec, hframe, hwrite, hout, hother⟩ := exec_modifyLed hset hmeaning
    refine ⟨t, hexec, fun hin => ?_, fun a ha => State.memRead_eq_of_withBright hframe.stripLen (fun k e he => ?_) ?_⟩
    · have he := List.getElem?_eq_getElem hin
      exact State.memRead_of_withBright hmarkers he (hwrite _ he)
    · by_cases hk : k = idx.toNat
      · exact ⟨p.2, hk ▸ hwrite e (hk ▸ he)⟩
      · exact ⟨e.bright, (hother k hk).trans he⟩
    · rintro k rfl
      by_cases hk : k = idx.toNat
      · rw [hout (by omega)]
      · exact hother k hk
  · obtain ⟨t, hexec, hframe, hwrite⟩ :=
      exec_modifyAll (i := .setillAll level) (s := s) (f := fun e => e.withBright level) rfl rfl
    refine ⟨t, hexec, fun k hk => ?_,
      fun a ha => State.memRead_eq_of_withBright hframe.stripLen (fun k e he => ⟨level, hwrite k e he⟩) ?_⟩
    · have he := List.getElem?_eq_getElem hk
      exact State.memRead_of_withBright hmarkers he (hwrite k _ he)
    · rintro k rfl
      have hbeyond : s.leds.length ≤ k := Nat.le_of_not_lt fun hk => ha k hk rfl
      rw [List.getElem?_eq_none hbeyond, List.getElem?_eq_none (hframe.stripLen.trans_le hbeyond)]

end Sys2Proof.Machine
end

section
/-! SUPPORT. `UPDATE` by its two branches (spec/42_serialize_update.md R68), and what a command does in a state that differs
in the model's bookkeeping alone: the trace and the number of draws (R69, R86). -/

namespace Sys2Proof.Machine

/-! ## The two branches of `UPDATE` -/

section
variable {s : State} {force : Bool}

/-- With the flag set or force 1, `UPDATE` transmits (R68). -/
theorem exec_update_of_dirty_or_forced (h : s.dirty = true ∨ force = true) :
    exec (.update force) s = .next s.transmit := by
  have hmust : s.mustTransmit force = true := (Bool.or_eq_true ..).mpr h
  exact congrArg Host.Outcome.next (if_pos hmust)

/-- With the flag clear, `UPDATE 0` does nothing (R68). -/
theorem exec_update_of_clean (h : s.dirty = false) : exec (.update false) s = .next s := by
  have hmust : ¬ s.mustTransmit false = true := by rw [State.mustTransmit, h]; exact Bool.false_ne_true
  exact congrArg Host.Outcome.next (if_neg hmust)

end

/-! ## Another trace, and another number of draws -/

section
variable (s : State) (trace : List Event) (draws : Nat)

/-- States that differ in trace and draws alone agree as outcomes. -/
theorem agreesButTrace_next : AgreesButTrace (.next s) (.next { s with trace := trace, draws := draws }) :=
  ⟨rfl, rfl, rfl, rfl, rfl⟩

/-- A transfer leaves the same state but for trace and draws: the status, which the draws decide, is dropped (R69). -/
theorem State.transmit_agreesButTrace :
    AgreesButTrace (.next s.transmit) (.next { s with trace := trace, draws := draws }.transmit) :=
  agreesButTrace_next s.transmit _ _

/-- A quiet moment is dropped whatever the trace. -/
theorem State.dropQuiet_agreesButTrace :
    AgreesButTrace (.next s.dropQuiet) (.next { s with trace := trace, draws := draws }.dropQuiet) := by
  simp only [State.dropQuiet]
  split <;> exact agreesButTrace_next ..

/-- No command reads the trace, and none reads the draws but for the transfer it hands out (R69, R86). -/
theorem exec_agreesButTrace (i : Instr) :
    AgreesButTrace (exec i s) (exec i { s with trace := trace, draws := draws }) := by
  by_cases hi : isSetter i = true
  · obtain ⟨g, hg, -⟩ := exists_setsEntries hi
    rw [hg, hg]
    exact agreesButTrace_next ..
  · cases i with
    | setcol _ _ _ _ | setcolAll _ _ _ | setrgb _ _ | setrgbAll _ | setill _ _ | setillAll _ | ledoff _ | ledon _ =>
      exact absurd rfl hi
    | update force =>
      by_cases h : s.dirty = true ∨ force = true
      · rw [exec_update_of_dirty_or_forced h,
          exec_update_of_dirty_or_forced (s := { s with trace := trace, draws := draws }) h]
        exact s.transmit_agreesButTrace trace draws
      · obtain ⟨hclean, rfl⟩ : s.dirty = false ∧ force = false := by simpa using h
        rw [exec_update_of_clean hclean,
          exec_update_of_clean (s := { s with trace := trace, draws := draws }) hclean]
        exact agreesButTrace_next ..
    | serialize | packrgb _ _ _ | packargb _ _ _ _ | unpka _ | unpkr _ | unpkg _ | unpkb _ =>
      exact agreesButTrace_next ..

end

end Sys2Proof.Machine
end

section
/-! The statements of the family spec/42_serialize_update.md. -/

namespace Sys2Proof.Machine

/-- Settles O55: the next action is read from `PHASE` and the host's inputs alone; a reset and an idle moment draw nothing,
construction drops the status of its transfer, and an accepted command does the same (`exec_agreesButTrace`) or is refused
for the same word. -/
theorem busStatusDoesNotInfluenceTheState : Obligations.BusStatusDoesNotInfluenceTheState := by
  intro s trace draws
  have haction : { s with trace := trace, draws := draws }.nextAction = s.nextAction := rfl
  rw [step, step, haction]
  cases s.nextAction with
  | reset => exact agreesButTrace_next ..
  | wait => exact agreesButTrace_next ..
  | construct => exact s.construct.dropQuiet_agreesButTrace _ _
  | accept w =>
    dsimp only
    cases decode w with
    | ok i => exact exec_agreesButTrace s.popHost trace draws i
    | error e => exact (rfl : refusalOf w e = refusalOf w e)

/-- Settles O26: the words are those of SERIALIZE's row (`decodesAs_of_mem`), and the response has one beat for each byte of
the frame (`responseEvents_getElem?`). -/
theorem serializeRespondsWithTheFrame : Obligations.SerializeRespondsWithTheFrame := by
  refine ⟨decodesAs_of_mem (r := outputRows[0]) (by simp [opcodeTable]), fun s => ?_⟩
  refine ⟨_, responseEvents ((frameOf s.leds).map (BitVec.setWidth 32)), rfl, rfl, rfl, rfl, rfl, rfl, rfl,
    s.latchFrame.respond_transfers _, rfl, ?_, fun k b hb => ?_⟩
  · rw [responseEvents_length, List.length_map, frameOf_length]
  · rw [responseEvents_getElem?, List.getElem?_map, hb, List.length_map, frameOf_length]
    rfl

/-- Settles O27: the words are those of UPDATE's row, and the meaning has two branches (`exec_update_of_dirty_or_forced`,
`exec_update_of_clean`). -/
theorem updateTransfersIfDirtyOrForced : Obligations.UpdateTransfersIfDirtyOrForced := by
  refine ⟨decodesAs_of_mem (r := outputRows[1]) (by simp [opcodeTable]), fun force s => ?_⟩
  by_cases h : s.dirty = true ∨ force = true
  · refine ⟨s.transmit, exec_update_of_dirty_or_forced h, rfl, rfl, rfl, rfl, fun _ => ?_, fun hclean hforce => ?_⟩
    · exact ⟨s.transmit_wirebuf, s.latchFrame.nextTransfer, s.transmit_trace, rfl, rfl, rfl⟩
    · simp [hclean, hforce] at h
  · obtain ⟨hclean, rfl⟩ : s.dirty = false ∧ force = false := by simpa using h
    exact ⟨s, exec_update_of_clean hclean, rfl, rfl, rfl, hclean, fun h' => absurd h' h, fun _ _ => rfl⟩

/-- Settles O28: the flag is clear after the first `UPDATE 0`, so the second does nothing (`exec_update_of_clean`). -/
theorem secondUpdateDoesNothing : Obligations.SecondUpdateDoesNothing := by
  intro s
  cases h : s.dirty with
  | false => exact ⟨s, exec_update_of_clean h, exec_update_of_clean h, rfl⟩
  | true =>
    refine ⟨s.transmit, exec_update_of_dirty h, exec_update_of_clean s.transmit_dirty, ?_⟩
    rw [State.transmit_transfers, List.length_append]
    rfl

end Sys2Proof.Machine
end

section
/-! SUPPORT. The packed colour words as shifts and ors (spec/43_pack_helpers.md R72 to R77), their round trips (R78), and
what a helper does with its one beat (spec/30_encoding.md R42). -/

namespace Sys2Proof.Machine

/-! ## Packing and unpacking as shifts, ors and masks -/

section
variable (a r g b : Byte)

/-- `PackRGB` is the or of its shifted channels; no channel reaches bits 31:24 (R72). -/
theorem packRGB_eq_shifts :
    packRGB r g b = r.setWidth 32 <<< 16 ||| g.setWidth 32 <<< 8 ||| b.setWidth 32 :=
  (threeBytes_setWidth r g b).symm.trans BitVec.setWidth_append_append_eq_shiftLeft_setWidth_or

/-- `PackARGB` is the or of its shifted channels (R73). -/
theorem packARGB_eq_shifts :
    packARGB a r g b = a.setWidth 32 <<< 24 ||| r.setWidth 32 <<< 16 ||| g.setWidth 32 <<< 8 ||| b.setWidth 32 :=
  (BitVec.setWidth_eq _).symm.trans BitVec.setWidth_append_append_append_eq_shiftLeft_setWidth_or

/-- The low 24 bits of a packed colour are its three channels (R52, R79). -/
theorem packRGB_low24 : (packRGB r g b).extractLsb' 0 24 = r ++ g ++ b := by
  rw [← threeBytes_setWidth, BitVec.extractLsb'_setWidth_of_le (by omega), BitVec.extractLsb'_eq_self]

end

/-- A byte of a word, zero-extended, is the word shifted and masked (R74 to R77). -/
theorem extractByte_setWidth (word : Beat) (k : Nat) : (word.extractLsb' k 8).setWidth 32 = word >>> k &&& 0xFF := by
  apply BitVec.eq_of_toNat_eq
  calc ((word.extractLsb' k 8).setWidth 32).toNat
      = word.toNat >>> k % 2 ^ 8 := by rw [BitVec.toNat_setWidth_of_le (by omega), BitVec.extractLsb'_toNat]
    _ = word.toNat >>> k &&& 2 ^ 8 - 1 := (Nat.and_two_pow_sub_one_eq_mod ..).symm
    _ = (word >>> k &&& 0xFF).toNat := by rw [BitVec.toNat_and, BitVec.toNat_ushiftRight]; rfl

/-! ## The round trips (R78) -/

section
variable (a r g b : Byte)

@[simp] theorem unpackAlpha_packARGB : unpackAlpha (packARGB a r g b) = a := fourBytes_byte3 a r g b
@[simp] theorem unpackRed_packARGB : unpackRed (packARGB a r g b) = r := fourBytes_byte2 a r g b
@[simp] theorem unpackGreen_packARGB : unpackGreen (packARGB a r g b) = g := fourBytes_byte1 a r g b
@[simp] theorem unpackBlue_packARGB : unpackBlue (packARGB a r g b) = b := fourBytes_byte0 a r g b

/-- A packed RGB colour is the ARGB word with alpha 0 (R72, R73). -/
theorem packRGB_eq_packARGB : packRGB r g b = packARGB 0 r g b := rfl

end

/-- Packing the channels of a word gives the word back. -/
theorem packARGB_unpack (x : Beat) :
    packARGB (unpackAlpha x) (unpackRed x) (unpackGreen x) (unpackBlue x) = x := (beat_eq_bytes x).symm

/-! ## The one beat of a helper -/

/-- A command that hands one beat to the response channel responds with it, marked as the last, and does nothing else
(R42). -/
theorem respondsOnly_of_exec {i : Instr} {s : State} {v beat : Beat} (h : exec i s = .next (s.respond [v]))
    (hbeat : v = beat) : ∃ t, exec i s = .next t ∧ RespondsOnly s t beat :=
  ⟨_, h, hbeat ▸ rfl⟩

end Sys2Proof.Machine
end

section
/-! The statements of the family spec/43_pack_helpers.md. -/

namespace Sys2Proof.Machine

/-- Settles O30: the words are those of PACKRGB's row (`decodesAs_of_mem`), and the one beat is the or of the shifted
channels (`packRGB_eq_shifts`). -/
theorem packrgbRespondsPackedColour : Obligations.PackrgbRespondsPackedColour :=
  ⟨decodesAs_of_mem (r := helperRows[0]) (by simp [opcodeTable]),
    fun r g b _ => respondsOnly_of_exec rfl (packRGB_eq_shifts r g b)⟩

/-- Settles O31: as PACKRGB, with alpha in the top byte (`packARGB_eq_shifts`). -/
theorem packargbRespondsArgbWord : Obligations.PackargbRespondsArgbWord :=
  ⟨decodesAs_of_mem (r := helperRows[1]) (by simp [opcodeTable]),
    fun a r g b _ => respondsOnly_of_exec rfl (packARGB_eq_shifts a r g b)⟩

/-- Settles O32: the words are those of UNPKA's row, and the one beat is byte 3 of the operand (`extractByte_setWidth`). -/
theorem unpkaRespondsAlpha : Obligations.UnpkaRespondsAlpha :=
  ⟨decodesAs_of_mem (r := helperRows[2]) (by simp [opcodeTable]),
    fun word _ => respondsOnly_of_exec rfl (extractByte_setWidth word 24)⟩

/-- Settles O33: as UNPKA, with byte 2. -/
theorem unpkrRespondsRed : Obligations.UnpkrRespondsRed :=
  ⟨decodesAs_of_mem (r := helperRows[3]) (by simp [opcodeTable]),
    fun word _ => respondsOnly_of_exec rfl (extractByte_setWidth word 16)⟩

/-- Settles O34: as UNPKA, with byte 1. -/
theorem unpkgRespondsGreen : Obligations.UnpkgRespondsGreen :=
  ⟨decodesAs_of_mem (r := helperRows[4]) (by simp [opcodeTable]),
    fun word _ => respondsOnly_of_exec rfl (extractByte_setWidth word 8)⟩

/-- Settles O35: as UNPKA, with byte 0, where nothing is shifted. -/
theorem unpkbRespondsBlue : Obligations.UnpkbRespondsBlue := by
  refine ⟨decodesAs_of_mem (r := helperRows[5]) (by simp [opcodeTable]), fun word _ => ?_⟩
  have hbeat : (unpackBlue word).setWidth 32 = word &&& 0xFF := extractByte_setWidth word 0
  exact respondsOnly_of_exec rfl hbeat

/-- Settles O36: a packed word is four bytes, from which each channel is read back, and a word is the four bytes read from
it (`packARGB_unpack`); the RGB half is the ARGB half with alpha 0 (`packRGB_eq_packARGB`). -/
theorem packAndUnpackAreInverse : Obligations.PackAndUnpackAreInverse := by
  refine ⟨fun r g b => ?_, fun a r g b => ?_, packARGB_unpack⟩
  · rw [packRGB_eq_packARGB]
    exact ⟨unpackRed_packARGB .., unpackGreen_packARGB .., unpackBlue_packARGB ..⟩
  · exact ⟨unpackAlpha_packARGB .., unpackRed_packARGB .., unpackGreen_packARGB .., unpackBlue_packARGB ..⟩

/-- Settles O37: the low 24 bits of the packed colour are its channels (`packRGB_low24`), so SETRGB writes the entry that
SETCOL writes (`fullOnPacked_threeBytes`); zero extension keeps each byte of the operand. -/
theorem setrgbOfPackedColourIsSetcol : Obligations.SetrgbOfPackedColourIsSetcol := by
  refine ⟨fun idx r g b s => ?_, fun p => ?_⟩
  · simp only [exec, execSetrgb, execSetcol, packRGB_low24, fullOnPacked_threeBytes]
  · have hbyte (k : Nat) (hk : k + 8 ≤ 32) : (p.setWidth 32).extractLsb' k 8 = p.extractLsb' k 8 :=
      BitVec.extractLsb'_setWidth_of_le hk
    exact ⟨hbyte 16 (by omega), hbyte 8 (by omega), hbyte 0 (by omega)⟩

end Sys2Proof.Machine
end

section
/-! SUPPORT. The two ways a step can end (spec/60_exceptions.md R84, R85): it answers, or it refuses a word that the decoder
does not know. -/

namespace Sys2Proof.Machine

/-- A word is accepted only in IDLE, when the host presents it (R16, R43). -/
theorem State.nextAction_eq_accept {s : State} {w : CmdWord} (h : s.nextAction = .accept w) :
    s.phase = .idle ∧ ∃ rest, s.host = .cmd w :: rest := by
  unfold State.nextAction at h
  split at h <;> cases h
  next hphase hhost => exact ⟨hphase, _, hhost⟩

/-- The step answers, or the block is in IDLE and is presented a word that does not decode (R84, R85). -/
theorem step_answers_or_reserved (s : State) :
    (∃ t, step s = .next t) ∨
    (s.phase = .idle ∧ ∃ w rest, s.host = .cmd w :: rest ∧ ∃ e, decode w = .error e) := by
  cases haction : s.nextAction with
  | reset => exact .inl ⟨s.popHost.assertReset, by rw [step, haction]⟩
  | construct => exact .inl ⟨s.construct.dropQuiet, by rw [step, haction]⟩
  | wait => exact .inl ⟨s.popHost, by rw [step, haction]⟩
  | accept w =>
    obtain ⟨hphase, rest, hhost⟩ := State.nextAction_eq_accept haction
    cases hdec : decode w with
    | ok i =>
      obtain ⟨t, hexec, -, -⟩ := exec_answers i s.popHost
      exact .inl ⟨t, (step_of_accept hphase hhost hdec).trans hexec⟩
    | error e => exact .inr ⟨hphase, w, rest, hhost, e, hdec⟩

end Sys2Proof.Machine
end

section
/-! The statements of the family spec/60_exceptions.md. -/

namespace Sys2Proof.Machine

/-- Settles O45: a step that does not answer is presented a word that does not decode (`step_answers_or_reserved`), which
is refused (`step_of_reserved`); the words that do not decode are those that no row accepts (`decode_error_iff`). -/
theorem onlyReservedWordsAreRefused : Obligations.OnlyReservedWordsAreRefused := by
  intro s
  refine ⟨⟨?_, ?_⟩, ?_⟩
  · rintro ⟨r, hr⟩
    obtain ⟨t, ht⟩ | ⟨hphase, w, rest, hhost, herror⟩ := step_answers_or_reserved s
    · exact absurd (ht.symm.trans hr) nofun
    · exact ⟨hphase, w, rest, hhost, decode_error_iff.1 herror⟩
  · rintro ⟨hphase, w, rest, hhost, hnone⟩
    obtain ⟨e, hdec⟩ := decode_error_iff.2 hnone
    exact ⟨_, step_of_reserved hphase hhost hdec⟩
  · obtain hanswers | ⟨hphase, w, rest, hhost, e, hdec⟩ := step_answers_or_reserved s
    · exact .inl hanswers
    · exact .inr ⟨_, step_of_reserved hphase hhost hdec⟩

/-- Settles O46: the word decodes to its command (`decode_encode`), which answers and keeps `PHASE` and the inputs to come
(`exec_answers`). -/
theorem blockIsReadyAgainAfterEveryCommand : Obligations.BlockIsReadyAgainAfterEveryCommand := by
  intro i s rest hphase hhost
  obtain ⟨t, hexec, hphase', hhost'⟩ := exec_answers i s.popHost
  refine ⟨t, (step_of_accept hphase hhost (decode_encode i)).trans hexec, ?_, ?_⟩
  · rw [State.cmdReady, hphase', State.popHost_phase, hphase]; rfl
  · rw [hhost', State.popHost_host, hhost, List.tail_cons]

end Sys2Proof.Machine
end


section
/-! SUPPORT. The frame of the reset entries and a reset with no transfer running (spec/70_reset_and_hazards.md R96, R98),
and a write through an index that is out of range (spec/20_memory.md R22). -/

namespace Sys2Proof.Machine

/-- A write through an index out of range leaves the state as it was (R22). -/
theorem State.modifyLed_of_out_of_range {s : State} {idx : Index} (h : s.leds.length ≤ idx.toNat)
    (f : LedEntry → LedEntry) : s.modifyLed idx f = s := by
  rw [State.modifyLed_eq, List.modify_eq_self h]

/-- `F0`: START, one packet `E0 00 00 00` for each entry, END (R96). -/
theorem frameOf_replicate_resetEntry (n : Nat) :
    frameOf (List.replicate n resetEntry) =
      [0, 0, 0, 0] ++ (List.replicate n [0xE0, 0, 0, 0]).flatten ++ [0xFF, 0xFF, 0xFF, 0xFF] := by
  have hpacket : packet resetEntry = [0xE0, 0, 0, 0] := by decide
  rw [frameOf, List.flatMap_replicate, hpacket]
  rfl

/-- A reset asserted with no transfer running acts at once, in either phase (R88, R98). -/
theorem step_of_rst {s : State} {rest : List HostInput} (hhost : s.host = .rst :: rest) :
    step s = .next s.popHost.assertReset := by
  have haction : s.nextAction = .reset := by rw [State.nextAction, hhost]
  rw [step, haction]

end Sys2Proof.Machine
end

section
/-! The statements of the family spec/70_reset_and_hazards.md. -/

namespace Sys2Proof.Machine

/-- Settles O23: each of the five setters is a write through the index, which leaves the state as it was
(`State.modifyLed_of_out_of_range`), and sets `DIRTY`; the next `UPDATE 0` finds the flag set and transmits
(`exec_update_of_dirty`). -/
theorem outOfRangeSetterIsRejectedButDirty : Obligations.OutOfRangeSetterIsRejectedButDirty := by
  intro idx s hout r g b p24 level i hi
  obtain ⟨f, hmeaning⟩ : ∃ f, exec i s = .next (s.modifyLed idx f).setDirty := by
    obtain rfl | rfl | rfl | rfl | rfl : i = .setcol idx r g b ∨ i = .setrgb idx p24 ∨ i = .setill idx level ∨
        i = .ledoff idx ∨ i = .ledon idx := by simpa using hi
    all_goals exact ⟨_, rfl⟩
  rw [State.modifyLed_of_out_of_range hout] at hmeaning
  exact ⟨hmeaning, s.setDirty.transmit, s.setDirty.latchFrame.nextTransfer,
    exec_update_of_dirty s.setDirty_dirty, s.setDirty.transmit_leds, s.setDirty.transmit_trace,
    s.setDirty.latchFrame_nextTransfer_buffer⟩

/-- Settles O29: the transfer is the whole of what `UPDATE` does, whatever its status, and with status OK it carried its
buffer (`State.nextTransfer_carried`); the flag is clear after it, so `UPDATE 0` does nothing (`exec_update_of_clean`) and
only a forced `UPDATE` transmits the same entries again (`exec_update_of_dirty_or_forced`). -/
theorem failedTransferIsNotRetriedOrReported : Obligations.FailedTransferIsNotRetriedOrReported := by
  intro force s h
  have hagain : exec (.update true) s.transmit = .next s.transmit.transmit := exec_update_of_dirty_or_forced (.inr rfl)
  exact ⟨s.transmit, s.latchFrame.nextTransfer, exec_update_of_dirty_or_forced h, s.transmit_trace, s.transmit_leds,
    s.transmit_dirty, s.latchFrame.nextTransfer_carried, exec_update_of_clean s.transmit_dirty,
    s.transmit.transmit, s.transmit.latchFrame.nextTransfer, hagain, s.transmit.transmit_trace,
    s.transmit.latchFrame_nextTransfer_buffer⟩

/-- Settles O39: the first step from reset is the construction sequence (`step_resetWith`), which transfers the frame of
the reset entries, `F0` (`frameOf_replicate_resetEntry`). -/
theorem constructionTransfersTheResetFrame : Obligations.ConstructionTransfersTheResetFrame := by
  intro n
  refine ⟨_, (State.resetWith n).latchFrame.nextTransfer, step_resetWith n, ?_, ?_, ?_, ?_, ?_, ?_, ?_, rfl⟩
  · rw [State.dropQuiet_leds, State.construct_leds]; rfl
  · rw [State.dropQuiet_dirty, State.construct_dirty]
  · rw [State.dropQuiet_phase, State.construct_phase]
  · rw [State.dropQuiet_wirebuf, State.construct_wirebuf, State.resetWith_leds, frameOf_replicate_resetEntry]
  · rw [State.dropQuiet_trace, State.construct_trace]; rfl
  · rw [State.dropQuiet_wirebuf, State.construct_wirebuf, State.latchFrame_nextTransfer_buffer]
  · rw [State.latchFrame_nextTransfer_length, State.stripLen, State.resetWith_leds, List.length_replicate]; rfl

/-- Settles O40: the reset acts at once (`step_of_rst`), and its fields are those of `State.assertReset`. -/
theorem resetDiscardsEverything : Obligations.ResetDiscardsEverything := by
  intro s rest hhost
  refine ⟨s.popHost.assertReset, step_of_rst hhost, s.popHost.assertReset_leds, s.popHost.assertReset_dirty,
    s.popHost.assertReset_phase, s.popHost.assertReset_wirebuf, s.popHost.assertReset_trace, ?_⟩
  rw [State.assertReset_host, State.popHost_host, hhost, List.tail_cons]

end Sys2Proof.Machine
end

section
/-! SUPPORT. The bit string on the link by position (spec/20_memory.md R25). -/

namespace Sys2Proof.Machine

@[simp] theorem byteBits_length (b : Byte) : (byteBits b).length = 8 := by simp [byteBits]

/-- Place `j` of a byte's bits holds bit `7 - j` (R25). -/
theorem byteBits_getElem? (b : Byte) {j : Nat} (hj : j < 8) : (byteBits b)[j]? = some (b.getLsbD (7 - j)) := by
  rw [byteBits, List.getElem?_map, List.getElem?_range hj, Option.map_some]

/-- The bit string has eight bits a byte. -/
@[simp] theorem wireBits_length (f : List Byte) : (wireBits f).length = 8 * f.length := by
  simp [wireBits, List.length_flatMap, Nat.mul_comm]

/-- Bit `8*k + j` of the bit string is bit `j` of byte `k`'s own bits. -/
theorem wireBits_getElem? (f : List Byte) (k : Nat) {j : Nat} (hj : j < 8) :
    (wireBits f)[8 * k + j]? = (f[k]?).bind fun b => (byteBits b)[j]? := by
  induction f generalizing k with
  | nil => rfl
  | cons b f ih =>
    have hcons : wireBits (b :: f) = byteBits b ++ wireBits f := List.flatMap_cons
    rw [hcons]
    cases k with
    | zero => rw [List.getElem?_append_left (by simpa using hj)]; simp
    | succ k =>
      have hskip : 8 * (k + 1) + j - (byteBits b).length = 8 * k + j := by rw [byteBits_length]; omega
      rw [List.getElem?_append_right (by rw [byteBits_length]; omega), hskip, ih k, List.getElem?_cons_succ]

end Sys2Proof.Machine
end

section
/-! SUPPORT. The steps of an idle block that accepts no command (spec/60_exceptions.md R93,
spec/70_reset_and_hazards.md R98), and that a command only adds to the trace. -/

namespace Sys2Proof.Machine

/-- In IDLE with nothing presented the block waits (R93). -/
theorem step_of_wait {s : State} (hphase : s.phase = .idle) (hhost : s.host = [] ∨ ∃ rest, s.host = .quiet :: rest) :
    step s = .next s.popHost := by
  have haction : s.nextAction = .wait := by
    obtain hhost | ⟨rest, hhost⟩ := hhost <;> rw [State.nextAction, hphase, hhost]
  rw [step, haction]

/-- In IDLE no transfer runs, so a reset marked as in one acts at once (R98; log entry 7). -/
theorem step_of_rstInTransfer {s : State} {rest : List HostInput} (hphase : s.phase = .idle)
    (hhost : s.host = .rstInTransfer :: rest) : step s = .next s.popHost.assertReset := by
  have haction : s.nextAction = .reset := by rw [State.nextAction, hphase, hhost]
  rw [step, haction]

/-- With a reset in the transfer next, the transfer of an update or of construction ends in FAIL (R98). -/
theorem State.latchFrame_nextTransfer_status_of_cut {s : State} {rest : List HostInput}
    (hhost : s.host = .rstInTransfer :: rest) : s.latchFrame.nextTransfer.status = .fail := by
  refine s.latchFrame.nextTransfer_status_of_cut ?_
  rw [State.cutByReset, State.latchFrame_host, hhost]

/-- Construction drops no reset (R43). -/
theorem State.dropQuiet_of_rstInTransfer {s : State} {rest : List HostInput}
    (hhost : s.host = .rstInTransfer :: rest) : s.dropQuiet = s := by
  rw [State.dropQuiet, hhost]

/-- A command takes back no event: a setter keeps the trace, an update adds one transfer or nothing, a response its
beats. -/
theorem exec_trace_prefix {i : Instr} {s t : State} (h : exec i s = .next t) : s.trace <+: t.trace := by
  obtain hset | ⟨force, -, hupd⟩ | ⟨-, -, wirebuf, vs, hresp, -⟩ := exec_cases i s
  · obtain ⟨leds, hset, -, -⟩ := exec_setter hset s
    obtain rfl := Host.Outcome.next.inj (hset.symm.trans h)
    exact List.prefix_rfl
  · obtain rfl := Host.Outcome.next.inj (hupd.symm.trans h)
    split
    · exact List.prefix_append ..
    · exact List.prefix_rfl
  · obtain rfl := Host.Outcome.next.inj (hresp.symm.trans h)
    exact List.prefix_append ..

end Sys2Proof.Machine
end

section
/-! SUPPORT. The invariant of the block across each operation (log entry 19): it holds at reset, and a reset, an idle moment,
an update and each shape of a command keep it. -/

namespace Sys2Proof.Machine

/-- The transfer of an update or of construction is legal (R86, R51). -/
theorem State.latchFrame_nextTransfer_legal {s : State} (hmarkers : s.MarkersSet) :
    s.latchFrame.nextTransfer.Legal s.stripLen where
  frame := ⟨s.leds, rfl, hmarkers, rfl⟩
  sized := frameOf_length s.leds
  length := rfl
  timeout := rfl
  delivered := s.latchFrame.nextTransfer_carried

/-- The reset entries have their markers set (R20). -/
theorem marker_of_mem_replicate_resetEntry {n : Nat} {e : LedEntry} (he : e ∈ List.replicate n resetEntry) :
    e.marker = packetMarker := by
  rw [List.eq_of_mem_replicate he]; rfl

/-- Right after reset: the flag is set and no transfer has been attempted (R20). -/
theorem State.resetWith_inv {n : Nat} (hpos : 1 ≤ n) (hmax : n ≤ Config.maxStripLength) : (State.resetWith n).Inv where
  stripBounded := by
    rw [State.StripBounded, State.stripLen, State.resetWith_leds, List.length_replicate]
    exact ⟨hpos, hmax⟩
  markersSet := fun _ he => marker_of_mem_replicate_resetEntry he
  wirebufSized := by
    rw [State.WirebufSized, State.stripLen, State.resetWith_leds, List.length_replicate]
    exact List.length_replicate
  initIsDirty := fun _ => State.resetWith_dirty n
  cleanIsAttempted := fun hclean => absurd (hclean.symm.trans (State.resetWith_dirty n)) nofun
  transfersLegal := by
    have hnone : (State.resetWith n).transfers = [] := rfl
    simp [State.TransfersLegal, hnone]

section
variable {s t : State} (h : s.Inv)
include h

/-- The invariant does not speak of the host's inputs. -/
theorem State.Inv.withHost (host : List HostInput) : { s with host := host }.Inv where
  stripBounded := h.stripBounded
  markersSet := h.markersSet
  wirebufSized := h.wirebufSized
  initIsDirty := h.initIsDirty
  cleanIsAttempted := h.cleanIsAttempted
  transfersLegal := h.transfersLegal

theorem State.Inv.popHost : s.popHost.Inv := h.withHost _

theorem State.Inv.dropQuiet : s.dropQuiet.Inv := by
  unfold State.dropQuiet
  split
  · exact h.withHost _
  · exact h

/-- A reset leaves `N`, `WIREBUF` and the transfers, and sets the flag (R98). -/
theorem State.Inv.assertReset : s.assertReset.Inv where
  stripBounded := by rw [State.StripBounded, State.assertReset_stripLen]; exact h.stripBounded
  markersSet := fun _ he => marker_of_mem_replicate_resetEntry he
  wirebufSized := by rw [State.WirebufSized, State.assertReset_stripLen]; exact h.wirebufSized
  initIsDirty := fun _ => s.assertReset_dirty
  cleanIsAttempted := fun hclean => absurd (hclean.symm.trans s.assertReset_dirty) nofun
  transfersLegal := by
    rw [State.TransfersLegal, State.assertReset_stripLen, State.assertReset_transfers]
    exact h.transfersLegal

/-- Construction latches the frame, attempts its transfer and clears the flag, and ends in IDLE (R96). -/
theorem State.Inv.construct : s.construct.Inv where
  stripBounded := h.stripBounded
  markersSet := h.markersSet
  wirebufSized := frameOf_length s.leds
  initIsDirty := nofun
  cleanIsAttempted := fun _ => ⟨rfl, by
    rw [State.lastBuffer, State.construct_transfers, List.getLast?_concat]; rfl⟩
  transfersLegal := by
    rw [State.TransfersLegal, State.construct_transfers, List.forall_mem_append, List.forall_mem_singleton]
    exact ⟨h.transfersLegal, State.latchFrame_nextTransfer_legal h.markersSet⟩

/-- In IDLE an update does what construction does (R96: "one unconditional update"). -/
theorem State.Inv.transmit (hphase : s.phase = .idle) : s.transmit.Inv := by
  have hsame : s.construct = s.transmit := by rw [State.construct, ← hphase]; rfl
  exact hsame ▸ h.construct

/-- Other entries, as many, with their markers set, under a set flag (R14). -/
theorem State.Inv.withLeds {leds : List LedEntry} (hlen : leds.length = s.leds.length)
    (hmarkers : ∀ e ∈ leds, e.marker = packetMarker) : { s with leds := leds, dirty := true }.Inv := by
  have hstrip : { s with leds := leds, dirty := true }.stripLen = s.stripLen := hlen
  exact {
    stripBounded := by rw [State.StripBounded, hstrip]; exact h.stripBounded
    markersSet := hmarkers
    wirebufSized := by rw [State.WirebufSized, hstrip]; exact h.wirebufSized
    initIsDirty := fun _ => rfl
    cleanIsAttempted := nofun
    transfersLegal := by rw [State.TransfersLegal, hstrip]; exact h.transfersLegal }

/-- A response adds no transfer, and `WIREBUF` is kept or holds the frame (R67, R30). -/
theorem State.Inv.withResponse {wirebuf : List Byte} (hwirebuf : wirebuf = s.wirebuf ∨ wirebuf = frameOf s.leds)
    (vs : List Beat) : { s with wirebuf := wirebuf, trace := s.trace ++ responseEvents vs }.Inv := by
  have htransfers : { s with wirebuf := wirebuf, trace := s.trace ++ responseEvents vs }.transfers = s.transfers :=
    s.respond_transfers vs
  exact {
    stripBounded := h.stripBounded
    markersSet := h.markersSet
    wirebufSized := by
      obtain rfl | rfl := hwirebuf
      · exact h.wirebufSized
      · exact frameOf_length s.leds
    initIsDirty := h.initIsDirty
    cleanIsAttempted := fun hclean => by
      obtain ⟨hframe, hlast⟩ := h.cleanIsAttempted hclean
      rw [State.lastBuffer, htransfers]
      exact ⟨hwirebuf.elim (fun hkept => hkept.trans hframe) id, hlast⟩
    transfersLegal := by rw [State.TransfersLegal, htransfers]; exact h.transfersLegal }

/-- In IDLE every command keeps the invariant, by its shape (`exec_cases`). -/
theorem State.Inv.of_exec {i : Instr} (hphase : s.phase = .idle) (hexec : exec i s = .next t) : t.Inv := by
  obtain hset | ⟨force, -, hupd⟩ | ⟨-, -, wirebuf, vs, hresp, hwirebuf⟩ := exec_cases i s
  · obtain ⟨leds, hset, hlen, hmarkers⟩ := exec_setter hset s
    obtain rfl := Host.Outcome.next.inj (hset.symm.trans hexec)
    exact h.withLeds hlen (hmarkers h.markersSet)
  · obtain rfl := Host.Outcome.next.inj (hupd.symm.trans hexec)
    split
    · exact h.transmit hphase
    · exact h
  · obtain rfl := Host.Outcome.next.inj (hresp.symm.trans hexec)
    exact h.withResponse (hwirebuf.imp_right And.right) vs

end

end Sys2Proof.Machine
end

section
/-! The statements about the whole machine and the remaining ones: the invariant, the trace, the idle block, resets, the
bit order, the written-out words. -/

namespace Sys2Proof.Machine

/-- Settles O48: each of the four things a step can do keeps the invariant; an accepted command runs in IDLE and does by
`State.Inv.of_exec`. -/
theorem invariantIsKeptByEveryStep : Obligations.InvariantIsKeptByEveryStep := by
  intro s t hinv h
  obtain rfl | ⟨-, rfl⟩ | ⟨-, rfl⟩ | ⟨hphase, w, rest, i, -, -, hexec⟩ := step_cases h
  · exact hinv.popHost.assertReset
  · exact hinv.construct.dropQuiet
  · exact hinv.popHost
  · exact hinv.popHost.of_exec hphase hexec

/-- Settles O47: the machine's own strip length is one of those that R5 allows. -/
theorem invariantHoldsAtReset : Obligations.InvariantHoldsAtReset :=
  ⟨State.resetWith_inv (by decide) (by decide), fun _ hpos hmax => State.resetWith_inv hpos hmax⟩

/-- Settles O50: a reset and construction append their events, an idle moment appends none, and an accepted command only
adds to the trace (`exec_trace_prefix`). -/
theorem traceOnlyGrows : Obligations.TraceOnlyGrows := by
  intro s t h
  obtain rfl | ⟨-, rfl⟩ | ⟨-, rfl⟩ | ⟨-, w, rest, i, -, -, hexec⟩ := step_cases h
  · exact List.prefix_append ..
  · rw [State.dropQuiet_trace, State.construct_trace]
    exact List.prefix_append ..
  · exact List.prefix_rfl
  · rw [← s.popHost_trace]
    exact exec_trace_prefix hexec

/-- Settles O12: the bit string is the bytes' bits one after another (`wireBits_getElem?`), each byte's from bit 7 down
(`byteBits_getElem?`). -/
theorem wireBitsAreMostSignificantFirst : Obligations.WireBitsAreMostSignificantFirst := by
  intro f
  refine ⟨wireBits_length f, fun k b hb j hj => ?_⟩
  rw [wireBits_getElem? f k hj, hb, Option.bind_some, byteBits_getElem? b hj]

/-- Settles O6: seven of the words are the encodings of their commands, so they decode to these (`decode_encode`); the
decoder evaluates on the two reserved ones. -/
theorem writtenOutWordsDecode : Obligations.WrittenOutWordsDecode :=
  ⟨decode_encode (.setcol 3 0x12 0x34 0x56), decode_encode (.setrgb 1 0x00FF80), decode_encode (.setill 0 31),
    decode_encode (.ledoff 2), decode_encode .serialize, decode_encode (.update true),
    decode_encode (.packargb 255 255 255 255), by decide, by decide⟩

/-- Settles O41: the step with the transfer is an `UPDATE` that transmits or the construction sequence, its transfer ends in
FAIL, and the reset is still presented to the block, which is then in IDLE (`step_of_rstInTransfer`). -/
theorem resetDuringTransferRecordsFail : Obligations.ResetDuringTransferRecordsFail := by
  rintro s rest force (⟨hphase, hmust, hhost⟩ | ⟨hphase, hhost⟩)
  · have hnext : s.popHost.host = .rstInTransfer :: rest := by rw [State.popHost_host, hhost, List.tail_cons]
    have hstep : step s = .next s.popHost.transmit :=
      (step_of_accept hphase hhost (decode_encode _)).trans (exec_update_of_dirty_or_forced hmust)
    exact ⟨_, _, _, hstep, s.popHost.transmit_trace, rfl, State.latchFrame_nextTransfer_status_of_cut hnext,
      step_of_rstInTransfer hphase hnext, rfl, congrArg List.tail hnext, rfl, rfl, rfl⟩
  · have hstep : step s = .next s.construct := by
      rw [step_of_init hphase (by simp [hhost]), State.dropQuiet_of_rstInTransfer (s := s.construct) hhost]
    exact ⟨_, _, _, hstep, s.construct_trace, rfl, State.latchFrame_nextTransfer_status_of_cut hhost,
      step_of_rstInTransfer s.construct_phase hhost, rfl, congrArg List.tail hhost, rfl, rfl, rfl⟩

/-- Settles O44: in both cases the block waits (`step_of_wait`), and takes an input off the sequence if there is one. -/
theorem idleBlockKeepsItsState : Obligations.IdleBlockKeepsItsState := by
  constructor
  · intro s hphase hhost
    have hpop : s.popHost = s := by rw [State.popHost, hhost, List.tail_nil, ← hhost]
    rw [step_of_wait hphase (.inl hhost), hpop]
  · intro s rest hphase hhost
    rw [step_of_wait hphase (.inr ⟨rest, hhost⟩), State.popHost, hhost, List.tail_cons]

/-- Settles O56: both resets act at once (`step_of_rstInTransfer`, `step_of_rst`), on states that are the same once the
input is taken. -/
theorem resetInTransferWithoutTransferIsAReset : Obligations.ResetInTransferWithoutTransferIsAReset := by
  intro s rest hphase hhost
  have hstep : step s = .next s.popHost.assertReset := step_of_rstInTransfer hphase hhost
  have hpop : s.popHost = { s with host := .rst :: rest }.popHost := by rw [State.popHost, hhost]; rfl
  refine ⟨?_, s.popHost.assertReset, hstep, s.popHost.assertReset_leds, rfl, rfl, rfl, rfl, congrArg List.tail hhost⟩
  rw [hstep, hpop, step_of_rst rfl]

end Sys2Proof.Machine
end
